-- ==== Sys2Proof/Word.lean ====
section
/-! DEFINITION. The two word types of the block: bytes, and 16-bit registers, addresses and
buffer positions (00_scope.md R5, R6, R12). -/

namespace Sys2Proof

/-- An 8-bit value: a byte of memory, of the instruction buffer, or of a register half. -/
abbrev Byte := BitVec 8

/-- A 16-bit value: a register, a data address, the instruction pointer. -/
abbrev Word := BitVec 16

end Sys2Proof
end

