-- ==== Sys2Proof/Config.lean ====
section
/-! DEFINITION. What is fixed for a run of the block: its two open parameters (00_scope.md R9)
and the bound of the instruction buffer (00_scope.md R7). Nothing else is left open by the spec,
so no constant here stands for an unstated value. -/

namespace Sys2Proof

/-- `P_ARITH8`: what 8-bit Add, Subtract and Compare do (42_arithmetic.md R123). -/
inductive Arith8 where
  /-- The ALU runs at 8 bits and the sign flag is bit 7. -/
  | native8
  /-- Every arithmetic instruction with `w = 0` raises Unsupported-Operation. -/
  | refuse
deriving DecidableEq, Repr

/-- `P_MOVB_MEM`: what the byte immediate-to-memory move does (41_move.md R117). -/
inductive MovbMem where
  /-- One byte is stored. -/
  | store8
  /-- The memory form raises Unsupported-Operation. -/
  | refuse
deriving DecidableEq, Repr

/-- The two open parameters, given with the launch inputs and never changed by a step. -/
structure Config where
  arith8  : Arith8
  movbMem : MovbMem
deriving DecidableEq, Repr

/-- The parameter values `State.reset` carries.
DESIGN CHOICE (log entry 3, unsafe): the spec leaves both open; no statement rests on these. -/
def Config.chosen : Config := ⟨.native8, .store8⟩

/-- The greatest legal length of the instruction buffer (00_scope.md R7). -/
def bufferLimit : Nat := 65536

end Sys2Proof
end

