-- ==== Sys2Proof/Syntax.lean ====
section
/-! DEFINITION. The instruction set as data: register names, operands, the 54 instructions (one
constructor for each row of opcode_table.json), and the decoded record of 40_decoder.md R86. -/

namespace Sys2Proof

/-- The eight 16-bit register names, in field order (10_state.md R24, 30_encoding.md R68). -/
inductive Reg16 where
  | ax | cx | dx | bx | sp | bp | si | di
deriving DecidableEq, Repr

/-- The eight 8-bit register names, in field order (10_state.md R24, 30_encoding.md R68). -/
inductive Reg8 where
  | al | cl | dl | bl | ah | ch | dh | bh
deriving DecidableEq, Repr

/-- Operand width, `W` of 30_encoding.md R75. -/
inductive Width where
  | w8 | w16
deriving DecidableEq, Repr

/-- The sixteen register names together (10_state.md R24). -/
inductive RegName where
  | r8  (r : Reg8)
  | r16 (r : Reg16)
deriving DecidableEq, Repr

/-- Base registers of an effective address (40_decoder.md R87). -/
inductive BaseReg where
  | bx | bp | si | di
deriving DecidableEq, Repr

/-- Index registers of an effective address (40_decoder.md R87). -/
inductive IndexReg where
  | si | di
deriving DecidableEq, Repr

/-- The displacement of an effective address; its width is kept even when its value is 0
(40_decoder.md R88). -/
inductive Disp where
  | none
  | d8  (v : Byte)
  | d16 (v : Word)
deriving DecidableEq, Repr

/-- `EA(base, index, disp)` of 40_decoder.md R87. -/
structure EffAddr where
  base  : BaseReg
  index : Option IndexReg
  disp  : Disp
deriving DecidableEq, Repr

/-- A memory operand: an effective address, or a 16-bit direct address (40_decoder.md R87). -/
inductive MemRef where
  | ea     (e : EffAddr)
  | direct (a : Word)
deriving DecidableEq, Repr

/-- A register/memory operand whose registers are of type `ρ`, so that a register of the wrong
width cannot be written down (40_decoder.md R91). -/
inductive Rm (ρ : Type) where
  | reg (r : ρ)
  | mem (m : MemRef)
deriving DecidableEq, Repr

/-- The register/memory operand of an instruction with `w = 0`. -/
abbrev Rm8 := Rm Reg8

/-- The register/memory operand of an instruction with `w = 1`. -/
abbrev Rm16 := Rm Reg16

/-- A source operand at width 8. -/
inductive Src8 where
  | rm  (o : Rm8)
  | imm (v : Byte)
deriving DecidableEq, Repr

/-- A source operand at width 16; `immSext` is the 8-bit immediate of IMMRM with s = 1, w = 1,
used sign-extended (30_encoding.md R74). -/
inductive Src16 where
  | rm      (o : Rm16)
  | imm     (v : Word)
  | immSext (v : Byte)
deriving DecidableEq, Repr

/-- The operand kinds of 40_decoder.md R87, over all sixteen register names. -/
inductive Operand where
  | reg    (r : RegName)
  | imm8   (v : Byte)
  | imm16  (v : Word)
  | ea     (e : EffAddr)
  | direct (a : Word)
deriving DecidableEq, Repr

/-- The arithmetic families (00_scope.md R2). -/
inductive Family where
  | add | sub | cmp
deriving DecidableEq, Repr

/-- The sixteen condition variants (30_encoding.md R80). -/
inductive Cond where
  | o | no | b | nb | e | ne | s | ns | p | np | l | nl | loopnz | loopz | loop | cxz
deriving DecidableEq, Repr

/-- The addressing patterns a Move carries (40_decoder.md R86). -/
inductive MoveVariant where
  | rm | immReg | movImmRm
deriving DecidableEq, Repr

/-- The addressing patterns an Arithmetic instruction carries (40_decoder.md R86). -/
inductive ArithVariant where
  | rm | immAcc | immRm
deriving DecidableEq, Repr

/-- The opcode of a decoded instruction (40_decoder.md R86), and what the classifier answers
(30_encoding.md R77). -/
inductive Opcode where
  | move            (v : MoveVariant)
  | arithmetic      (f : Family) (v : ArithVariant)
  | conditionalJump (c : Cond)
  | unrecognized
deriving DecidableEq, Repr

/-- The decoded instruction as the record `opcode, W, dst, src, len` of 40_decoder.md R86. -/
structure Record where
  opcode : Opcode
  width  : Option Width
  dst    : Option Operand
  src    : Option Operand
  len    : Nat
deriving DecidableEq, Repr

/-- The 54 instructions of opcode_table.json, one constructor for each row, in the table's order. -/
inductive Instr where
  /-- 0x88, R111 -/
  | movRm8R8 (dst : Rm8) (src : Reg8)
  /-- 0x89, R112 -/
  | movRm16R16 (dst : Rm16) (src : Reg16)
  /-- 0x8A, R113 -/
  | movR8Rm8 (dst : Reg8) (src : Rm8)
  /-- 0x8B, R114 -/
  | movR16Rm16 (dst : Reg16) (src : Rm16)
  /-- 0xB0 to 0xB7, R115 -/
  | movR8Imm8 (dst : Reg8) (imm : Byte)
  /-- 0xB8 to 0xBF, R116 -/
  | movR16Imm16 (dst : Reg16) (imm : Word)
  /-- 0xC6 /0, R117 -/
  | movRm8Imm8 (dst : Rm8) (imm : Byte)
  /-- 0xC7 /0, R118 -/
  | movRm16Imm16 (dst : Rm16) (imm : Word)
  /-- 0x00, R126 -/
  | addRm8R8 (dst : Rm8) (src : Reg8)
  /-- 0x01, R127 -/
  | addRm16R16 (dst : Rm16) (src : Reg16)
  /-- 0x02, R128 -/
  | addR8Rm8 (dst : Reg8) (src : Rm8)
  /-- 0x03, R129 -/
  | addR16Rm16 (dst : Reg16) (src : Rm16)
  /-- 0x04, R130 -/
  | addAlImm8 (imm : Byte)
  /-- 0x05, R131 -/
  | addAxImm16 (imm : Word)
  /-- 0x80 /0, R132 -/
  | addRm8Imm8 (dst : Rm8) (imm : Byte)
  /-- 0x81 /0, R133 -/
  | addRm16Imm16 (dst : Rm16) (imm : Word)
  /-- 0x82 /0, R134 -/
  | addRm8Imm8S (dst : Rm8) (imm : Byte)
  /-- 0x83 /0, R135 -/
  | addRm16Imm8 (dst : Rm16) (imm : Byte)
  /-- 0x28, R136 -/
  | subRm8R8 (dst : Rm8) (src : Reg8)
  /-- 0x29, R137 -/
  | subRm16R16 (dst : Rm16) (src : Reg16)
  /-- 0x2A, R138 -/
  | subR8Rm8 (dst : Reg8) (src : Rm8)
  /-- 0x2B, R139 -/
  | subR16Rm16 (dst : Reg16) (src : Rm16)
  /-- 0x2C, R140 -/
  | subAlImm8 (imm : Byte)
  /-- 0x2D, R141 -/
  | subAxImm16 (imm : Word)
  /-- 0x80 /5, R142 -/
  | subRm8Imm8 (dst : Rm8) (imm : Byte)
  /-- 0x81 /5, R143 -/
  | subRm16Imm16 (dst : Rm16) (imm : Word)
  /-- 0x82 /5, R144 -/
  | subRm8Imm8S (dst : Rm8) (imm : Byte)
  /-- 0x83 /5, R145 -/
  | subRm16Imm8 (dst : Rm16) (imm : Byte)
  /-- 0x38, R146 -/
  | cmpRm8R8 (dst : Rm8) (src : Reg8)
  /-- 0x39, R147 -/
  | cmpRm16R16 (dst : Rm16) (src : Reg16)
  /-- 0x3A, R148 -/
  | cmpR8Rm8 (dst : Reg8) (src : Rm8)
  /-- 0x3B, R149 -/
  | cmpR16Rm16 (dst : Reg16) (src : Rm16)
  /-- 0x3C, R150 -/
  | cmpAlImm8 (imm : Byte)
  /-- 0x3D, R151 -/
  | cmpAxImm16 (imm : Word)
  /-- 0x80 /7, R152 -/
  | cmpRm8Imm8 (dst : Rm8) (imm : Byte)
  /-- 0x81 /7, R153 -/
  | cmpRm16Imm16 (dst : Rm16) (imm : Word)
  /-- 0x82 /7, R154 -/
  | cmpRm8Imm8S (dst : Rm8) (imm : Byte)
  /-- 0x83 /7, R155 -/
  | cmpRm16Imm8 (dst : Rm16) (imm : Byte)
  /-- 0x70, R160 -/
  | jo (disp : Byte)
  /-- 0x71, R161 -/
  | jno (disp : Byte)
  /-- 0x72, R162 -/
  | jb (disp : Byte)
  /-- 0x73, R163 -/
  | jnb (disp : Byte)
  /-- 0x74, R164 -/
  | je (disp : Byte)
  /-- 0x75, R165 -/
  | jne (disp : Byte)
  /-- 0x78, R166 -/
  | js (disp : Byte)
  /-- 0x79, R167 -/
  | jns (disp : Byte)
  /-- 0x7A, R168 -/
  | jp (disp : Byte)
  /-- 0x7B, R169 -/
  | jnp (disp : Byte)
  /-- 0x7C, R170 -/
  | jl (disp : Byte)
  /-- 0x7D, R171 -/
  | jnl (disp : Byte)
  /-- 0xE0, R172 -/
  | loopnz (disp : Byte)
  /-- 0xE1, R173 -/
  | loopz (disp : Byte)
  /-- 0xE2, R174 -/
  | loop (disp : Byte)
  /-- 0xE3, R175 -/
  | jcxz (disp : Byte)
deriving DecidableEq, Repr

/-- What DEC decodes successfully: one of the 54 instructions, or the Unrecognized placeholder
(40_decoder.md R95). -/
inductive Decoded where
  | known (i : Instr)
  | unrecognized
deriving DecidableEq, Repr

/-- `dec_out` of 00_scope.md R18. -/
inductive DecOut where
  /-- `End`: the position is at or past the end of the buffer (40_decoder.md R93). -/
  | endOfBuffer
  /-- `Truncated`: a byte the instruction needs is missing (40_decoder.md R96). -/
  | truncated
  /-- `Ok(instr)`. -/
  | ok (d : Decoded)
deriving DecidableEq, Repr

end Sys2Proof
end

