-- ==== Sys2Proof/WellFormed.lean ====
section
/-! DEFINITION. Which instruction terms stand for an encoding. Register widths are held by the
types of Syntax.lean; what is left to check is the effective address: its base and index must be
one of the eight pairings of 30_encoding.md R71, and `[BP]` with no displacement is no effective
address, because mod = 00 with r/m = 110 is the direct address (30_encoding.md R72). -/

namespace Sys2Proof

/-- The pairing is a row of 30_encoding.md R71: only BX and BP are combined with an index. -/
def EffAddr.pairOk (e : EffAddr) : Bool :=
  match e.index, e.base with
  | none, _ => true
  | some _, .bx => true
  | some _, .bp => true
  | some _, .si => false
  | some _, .di => false

/-- BP alone carries a displacement (30_encoding.md R71, R72). -/
def EffAddr.dispOk (e : EffAddr) : Bool :=
  match e.base, e.index, e.disp with
  | .bp, none, .none => false
  | _, _, _ => true

def EffAddr.wf (e : EffAddr) : Bool := e.pairOk && e.dispOk

def MemRef.wf : MemRef → Bool
  | .ea e => e.wf
  | .direct _ => true

def Rm.wf {ρ : Type} : Rm ρ → Bool
  | .reg _ => true
  | .mem m => m.wf

/-- An instruction is well formed when its register/memory operand is. -/
def Instr.wf : Instr → Bool
  | .movRm8R8 o _ => o.wf
  | .movRm16R16 o _ => o.wf
  | .movR8Rm8 _ o => o.wf
  | .movR16Rm16 _ o => o.wf
  | .movR8Imm8 _ _ => true
  | .movR16Imm16 _ _ => true
  | .movRm8Imm8 o _ => o.wf
  | .movRm16Imm16 o _ => o.wf
  | .addRm8R8 o _ => o.wf
  | .addRm16R16 o _ => o.wf
  | .addR8Rm8 _ o => o.wf
  | .addR16Rm16 _ o => o.wf
  | .addAlImm8 _ => true
  | .addAxImm16 _ => true
  | .addRm8Imm8 o _ => o.wf
  | .addRm16Imm16 o _ => o.wf
  | .addRm8Imm8S o _ => o.wf
  | .addRm16Imm8 o _ => o.wf
  | .subRm8R8 o _ => o.wf
  | .subRm16R16 o _ => o.wf
  | .subR8Rm8 _ o => o.wf
  | .subR16Rm16 _ o => o.wf
  | .subAlImm8 _ => true
  | .subAxImm16 _ => true
  | .subRm8Imm8 o _ => o.wf
  | .subRm16Imm16 o _ => o.wf
  | .subRm8Imm8S o _ => o.wf
  | .subRm16Imm8 o _ => o.wf
  | .cmpRm8R8 o _ => o.wf
  | .cmpRm16R16 o _ => o.wf
  | .cmpR8Rm8 _ o => o.wf
  | .cmpR16Rm16 _ o => o.wf
  | .cmpAlImm8 _ => true
  | .cmpAxImm16 _ => true
  | .cmpRm8Imm8 o _ => o.wf
  | .cmpRm16Imm16 o _ => o.wf
  | .cmpRm8Imm8S o _ => o.wf
  | .cmpRm16Imm8 o _ => o.wf
  | .jo _ => true
  | .jno _ => true
  | .jb _ => true
  | .jnb _ => true
  | .je _ => true
  | .jne _ => true
  | .js _ => true
  | .jns _ => true
  | .jp _ => true
  | .jnp _ => true
  | .jl _ => true
  | .jnl _ => true
  | .loopnz _ => true
  | .loopz _ => true
  | .loop _ => true
  | .jcxz _ => true

end Sys2Proof
end

