-- ==== Sys2Proof/Decode.lean ====
section
/-! DEFINITION. DEC: the bit-field extractors, the register and effective-address tables, the
opcode classifier, the effective-address resolver's decoding half, `decode_at`, the record of a
decoded instruction, and the encoder written from the same tables (30_encoding.md,
40_decoder.md). -/

namespace Sys2Proof

/-! ## Byte helpers (00_scope.md R11, R12) -/

/-- `v[7:0]`. -/
def lowByte (v : Word) : Byte := v.extractLsb' 0 8

/-- `v[15:8]`. -/
def highByte (v : Word) : Byte := v.extractLsb' 8 8

/-- `{hi, lo}`. -/
def joinBytes (hi lo : Byte) : Word := hi ++ lo

/-- `sext_16`. -/
def sext16 (v : Byte) : Word := v.signExtend 16

/-! ## Bit-field extractors (30_encoding.md R61 to R67) -/

/-- `field(byte, lo, width)`. -/
def field (b : Byte) (lo width : Nat) : BitVec width := b.extractLsb' lo width

/-- `d = b0[1]` of format RM. -/
def dBit (b0 : Byte) : Bool := field b0 1 1 == 1#1

/-- `w = b0[0]` of every format but IMMREG. -/
def wBit (b0 : Byte) : Bool := field b0 0 1 == 1#1

/-- `s = b0[1]` of format IMMRM. -/
def sBit (b0 : Byte) : Bool := field b0 1 1 == 1#1

/-- `w = b0[3]` of format IMMREG. -/
def immRegW (b0 : Byte) : Bool := field b0 3 1 == 1#1

/-- `reg = b0[2:0]` of format IMMREG. -/
def immRegReg (b0 : Byte) : BitVec 3 := field b0 0 3

/-- `mod = b1[7:6]`. -/
def modField (b1 : Byte) : BitVec 2 := field b1 6 2

/-- `reg` or `op`, `b1[5:3]`. -/
def regField (b1 : Byte) : BitVec 3 := field b1 3 3

/-- `r/m = b1[2:0]`. -/
def rmField (b1 : Byte) : BitVec 3 := field b1 0 3

/-! ## Register tables (30_encoding.md R68) -/

/-- The column w = 1, in field order. -/
def reg16Table : List Reg16 := [.ax, .cx, .dx, .bx, .sp, .bp, .si, .di]

/-- The column w = 0, in field order. -/
def reg8Table : List Reg8 := [.al, .cl, .dl, .bl, .ah, .ch, .dh, .bh]

/-- `regname(f, 1)`. -/
def reg16Of (f : BitVec 3) : Reg16 := reg16Table[f.toNat]'f.isLt

/-- `regname(f, 0)`. -/
def reg8Of (f : BitVec 3) : Reg8 := reg8Table[f.toNat]'f.isLt

/-- `num(r)` of 40_decoder.md R107 for a 16-bit name. -/
def reg16Num : Reg16 → BitVec 3
  | .ax => 0 | .cx => 1 | .dx => 2 | .bx => 3 | .sp => 4 | .bp => 5 | .si => 6 | .di => 7

/-- `num(r)` of 40_decoder.md R107 for an 8-bit name. -/
def reg8Num : Reg8 → BitVec 3
  | .al => 0 | .cl => 1 | .dl => 2 | .bl => 3 | .ah => 4 | .ch => 5 | .dh => 6 | .bh => 7

/-! ## The effective-address table (30_encoding.md R71), as data -/

/-- Base and index of each r/m value, in field order. -/
def eaTable : List (BaseReg × Option IndexReg) :=
  [(.bx, some .si), (.bx, some .di), (.bp, some .si), (.bp, some .di),
   (.si, none), (.di, none), (.bp, none), (.bx, none)]

/-- The row of an r/m value. -/
def eaRow (rm : BitVec 3) : BaseReg × Option IndexReg := eaTable[rm.toNat]'rm.isLt

/-- The r/m value of a row, for the encoder; no meaning for a pairing that is no row. -/
def eaNum (base : BaseReg) (index : Option IndexReg) : BitVec 3 :=
  BitVec.ofNat 3 (eaTable.findIdx (· == (base, index)))

/-! ## The opcode classifier (30_encoding.md R77 to R80) -/

/-- One row of the classifier's table: `b0 & mask = pattern`, and `b1[5:3] = sub` where the row
tests it. -/
structure OpcodeRow where
  mask    : Byte
  pattern : Byte
  sub     : Option (BitVec 3)
  opcode  : Opcode
deriving DecidableEq, Repr

/-- The sixteen conditional-jump bytes (30_encoding.md R80). -/
def jccTable : List (Byte × Cond) :=
  [(0x70, .o), (0x71, .no), (0x72, .b), (0x73, .nb), (0x74, .e), (0x75, .ne), (0x78, .s), (0x79, .ns),
   (0x7A, .p), (0x7B, .np), (0x7C, .l), (0x7D, .nl), (0xE0, .loopnz), (0xE1, .loopz), (0xE2, .loop),
   (0xE3, .cxz)]

/-- The classifier's table in priority order (30_encoding.md R77), its row 10 written as one row
for each family (R79) and its row 11 as one row for each jump byte (R80). -/
def opcodeTable : List OpcodeRow :=
  [⟨0xFC, 0x88, none, .move .rm⟩,
   ⟨0xF0, 0xB0, none, .move .immReg⟩,
   ⟨0xFE, 0xC6, some 0, .move .movImmRm⟩,
   ⟨0xFC, 0x00, none, .arithmetic .add .rm⟩,
   ⟨0xFE, 0x04, none, .arithmetic .add .immAcc⟩,
   ⟨0xFC, 0x28, none, .arithmetic .sub .rm⟩,
   ⟨0xFE, 0x2C, none, .arithmetic .sub .immAcc⟩,
   ⟨0xFC, 0x38, none, .arithmetic .cmp .rm⟩,
   ⟨0xFE, 0x3C, none, .arithmetic .cmp .immAcc⟩,
   ⟨0xFC, 0x80, some 0, .arithmetic .add .immRm⟩,
   ⟨0xFC, 0x80, some 5, .arithmetic .sub .immRm⟩,
   ⟨0xFC, 0x80, some 7, .arithmetic .cmp .immRm⟩] ++
  jccTable.map fun p => ⟨0xFF, p.1, none, .conditionalJump p.2⟩

/-- The first byte fits the row. -/
def OpcodeRow.fits (r : OpcodeRow) (b0 : Byte) : Bool := b0 &&& r.mask == r.pattern

/-- The row matches: the first byte fits, and so does `b1[5:3]` where the row tests it. -/
def OpcodeRow.hits (r : OpcodeRow) (b0 : Byte) (b1 : Option Byte) : Bool :=
  r.fits b0 &&
    match r.sub, b1 with
    | none, _ => true
    | some f, some b => regField b == f
    | some _, none => false

/-- Classifying needs `b1` (40_decoder.md R94). -/
def needsSecond (b0 : Byte) : Bool := opcodeTable.any fun r => r.sub.isSome && r.fits b0

/-- The first row of `rows` that matches, else Unrecognized (30_encoding.md R77). -/
def classifyIn (rows : List OpcodeRow) (b0 : Byte) (b1 : Option Byte) : Opcode :=
  match rows.find? (·.hits b0 b1) with
  | some r => r.opcode
  | none => .unrecognized

/-- The opcode classifier; `none` when the second byte is needed and missing
(40_decoder.md R94). -/
def classify (b0 : Byte) (b1 : Option Byte) : Option Opcode :=
  if needsSecond b0 && b1.isNone then none else some (classifyIn opcodeTable b0 b1)

/-! ## The resolver's decoding half (40_decoder.md R89) -/

/-- `Resolve(mod, rm, w)` on the bytes after `b1`, `name` being the register table that `w`
selects: the operand and the bytes left over, or `none` when a displacement byte is missing. -/
def resolve {ρ : Type} (name : BitVec 3 → ρ) (mod : BitVec 2) (rm : BitVec 3) (rest : List Byte) :
    Option (Rm ρ × List Byte) :=
  if mod = 3 then some (.reg (name rm), rest)
  else if mod = 0 then
    if rm = 6 then
      match rest with
      | lo :: hi :: rest => some (.mem (.direct (joinBytes hi lo)), rest)
      | _ => none
    else some (.mem (.ea ⟨(eaRow rm).1, (eaRow rm).2, .none⟩), rest)
  else if mod = 1 then
    match rest with
    | d :: rest => some (.mem (.ea ⟨(eaRow rm).1, (eaRow rm).2, .d8 d⟩), rest)
    | _ => none
  else
    match rest with
    | lo :: hi :: rest => some (.mem (.ea ⟨(eaRow rm).1, (eaRow rm).2, .d16 (joinBytes hi lo)⟩), rest)
    | _ => none

/-- An 8-bit immediate (30_encoding.md R74). -/
def takeImm8 : List Byte → Option Byte
  | v :: _ => some v
  | [] => none

/-- A 16-bit immediate, low byte first (30_encoding.md R74). -/
def takeImm16 : List Byte → Option Word
  | lo :: hi :: _ => some (joinBytes hi lo)
  | _ => none

/-! ## Assembling each form (40_decoder.md R97 to R102) -/

/-- The RM instruction of a Move at width 8. -/
def movRm8 (d : Bool) (o : Rm8) (r : Reg8) : Instr := if d then .movR8Rm8 r o else .movRm8R8 o r

/-- The RM instruction of a Move at width 16. -/
def movRm16 (d : Bool) (o : Rm16) (r : Reg16) : Instr :=
  if d then .movR16Rm16 r o else .movRm16R16 o r

/-- The RM instruction of a family at width 8. -/
def arithRm8 (f : Family) (d : Bool) (o : Rm8) (r : Reg8) : Instr :=
  match f with
  | .add => if d then .addR8Rm8 r o else .addRm8R8 o r
  | .sub => if d then .subR8Rm8 r o else .subRm8R8 o r
  | .cmp => if d then .cmpR8Rm8 r o else .cmpRm8R8 o r

/-- The RM instruction of a family at width 16. -/
def arithRm16 (f : Family) (d : Bool) (o : Rm16) (r : Reg16) : Instr :=
  match f with
  | .add => if d then .addR16Rm16 r o else .addRm16R16 o r
  | .sub => if d then .subR16Rm16 r o else .subRm16R16 o r
  | .cmp => if d then .cmpR16Rm16 r o else .cmpRm16R16 o r

/-- The IMMACC instruction at width 8. -/
def arithAcc8 : Family → Byte → Instr
  | .add => .addAlImm8
  | .sub => .subAlImm8
  | .cmp => .cmpAlImm8

/-- The IMMACC instruction at width 16. -/
def arithAcc16 : Family → Word → Instr
  | .add => .addAxImm16
  | .sub => .subAxImm16
  | .cmp => .cmpAxImm16

/-- The IMMRM instruction with w = 0, of 0x80 (s = 0) or 0x82 (s = 1). -/
def arithImm8 (f : Family) (s : Bool) (o : Rm8) (v : Byte) : Instr :=
  match f with
  | .add => if s then .addRm8Imm8S o v else .addRm8Imm8 o v
  | .sub => if s then .subRm8Imm8S o v else .subRm8Imm8 o v
  | .cmp => if s then .cmpRm8Imm8S o v else .cmpRm8Imm8 o v

/-- The IMMRM instruction with s = 0, w = 1 (0x81). -/
def arithImm16 : Family → Rm16 → Word → Instr
  | .add => .addRm16Imm16
  | .sub => .subRm16Imm16
  | .cmp => .cmpRm16Imm16

/-- The IMMRM instruction with s = 1, w = 1 (0x83). -/
def arithImmSext : Family → Rm16 → Byte → Instr
  | .add => .addRm16Imm8
  | .sub => .subRm16Imm8
  | .cmp => .cmpRm16Imm8

/-- The conditional jump of a variant. -/
def jccInstr : Cond → Byte → Instr
  | .o => .jo | .no => .jno | .b => .jb | .nb => .jnb | .e => .je | .ne => .jne | .s => .js
  | .ns => .jns | .p => .jp | .np => .jnp | .l => .jl | .nl => .jnl | .loopnz => .loopnz
  | .loopz => .loopz | .loop => .loop | .cxz => .jcxz

/-- Form RM (40_decoder.md R97). -/
def assembleRm (mk8 : Bool → Rm8 → Reg8 → Instr) (mk16 : Bool → Rm16 → Reg16 → Instr) (b0 : Byte) :
    List Byte → Option Instr
  | [] => none
  | b1 :: rest =>
    if wBit b0 then
      (resolve reg16Of (modField b1) (rmField b1) rest).map
        fun p => mk16 (dBit b0) p.1 (reg16Of (regField b1))
    else
      (resolve reg8Of (modField b1) (rmField b1) rest).map
        fun p => mk8 (dBit b0) p.1 (reg8Of (regField b1))

/-- Form IMMREG (40_decoder.md R98). -/
def assembleImmReg (b0 : Byte) (rest : List Byte) : Option Instr :=
  if immRegW b0 then (takeImm16 rest).map (.movR16Imm16 (reg16Of (immRegReg b0)))
  else (takeImm8 rest).map (.movR8Imm8 (reg8Of (immRegReg b0)))

/-- Form IMMACC (40_decoder.md R99). -/
def assembleImmAcc (f : Family) (b0 : Byte) (rest : List Byte) : Option Instr :=
  if wBit b0 then (takeImm16 rest).map (arithAcc16 f) else (takeImm8 rest).map (arithAcc8 f)

/-- Form IMMRM (40_decoder.md R100). -/
def assembleImmRm (f : Family) (b0 : Byte) : List Byte → Option Instr
  | [] => none
  | b1 :: rest =>
    if wBit b0 then
      match resolve reg16Of (modField b1) (rmField b1) rest with
      | none => none
      | some (o, rest) =>
        if sBit b0 then (takeImm8 rest).map (arithImmSext f o) else (takeImm16 rest).map (arithImm16 f o)
    else
      match resolve reg8Of (modField b1) (rmField b1) rest with
      | none => none
      | some (o, rest) => (takeImm8 rest).map (arithImm8 f (sBit b0) o)

/-- Form MOVIMMRM (40_decoder.md R101). -/
def assembleMovImmRm (b0 : Byte) : List Byte → Option Instr
  | [] => none
  | b1 :: rest =>
    if wBit b0 then
      match resolve reg16Of (modField b1) (rmField b1) rest with
      | none => none
      | some (o, rest) => (takeImm16 rest).map (.movRm16Imm16 o)
    else
      match resolve reg8Of (modField b1) (rmField b1) rest with
      | none => none
      | some (o, rest) => (takeImm8 rest).map (.movRm8Imm8 o)

/-- A recognised form: Truncated when a byte it needs is missing (40_decoder.md R96). -/
def assembled : Option Instr → DecOut
  | none => .truncated
  | some i => .ok (.known i)

/-- The form an opcode selects, on `b0` and the bytes after it. -/
def assemble (op : Opcode) (b0 : Byte) (rest : List Byte) : DecOut :=
  match op with
  | .move .rm => assembled (assembleRm movRm8 movRm16 b0 rest)
  | .move .immReg => assembled (assembleImmReg b0 rest)
  | .move .movImmRm => assembled (assembleMovImmRm b0 rest)
  | .arithmetic f .rm => assembled (assembleRm (arithRm8 f) (arithRm16 f) b0 rest)
  | .arithmetic f .immAcc => assembled (assembleImmAcc f b0 rest)
  | .arithmetic f .immRm => assembled (assembleImmRm f b0 rest)
  | .conditionalJump c => assembled ((takeImm8 rest).map (jccInstr c))
  | .unrecognized => .ok .unrecognized

/-- The decoder on the bytes from a position to the end of the buffer
(40_decoder.md R93 to R96). -/
def decode : List Byte → DecOut
  | [] => .endOfBuffer
  | b0 :: rest =>
    match classify b0 rest.head? with
    | none => .truncated
    | some op => assemble op b0 rest

/-- `decode_at(pos)` (40_decoder.md section 3). -/
def decodeAt (buf : List Byte) (pos : Nat) : DecOut := decode (buf.drop pos)

/-! ## Lengths (40_decoder.md R90, R103) -/

/-- The number of displacement bytes of a memory operand. -/
def MemRef.dispLen : MemRef → Nat
  | .direct _ => 2
  | .ea e =>
    match e.disp with
    | .none => 0
    | .d8 _ => 1
    | .d16 _ => 2

/-- The count `Resolve` returns: the bytes from `b0` through the last displacement byte. -/
def Rm.count {ρ : Type} : Rm ρ → Nat
  | .reg _ => 2
  | .mem m => 2 + m.dispLen

/-- The byte length of an instruction. -/
def Instr.len : Instr → Nat
  | .movRm8R8 o _ => o.count
  | .movRm16R16 o _ => o.count
  | .movR8Rm8 _ o => o.count
  | .movR16Rm16 _ o => o.count
  | .movR8Imm8 _ _ => 2
  | .movR16Imm16 _ _ => 3
  | .movRm8Imm8 o _ => o.count + 1
  | .movRm16Imm16 o _ => o.count + 2
  | .addRm8R8 o _ => o.count
  | .addRm16R16 o _ => o.count
  | .addR8Rm8 _ o => o.count
  | .addR16Rm16 _ o => o.count
  | .addAlImm8 _ => 2
  | .addAxImm16 _ => 3
  | .addRm8Imm8 o _ => o.count + 1
  | .addRm16Imm16 o _ => o.count + 2
  | .addRm8Imm8S o _ => o.count + 1
  | .addRm16Imm8 o _ => o.count + 1
  | .subRm8R8 o _ => o.count
  | .subRm16R16 o _ => o.count
  | .subR8Rm8 _ o => o.count
  | .subR16Rm16 _ o => o.count
  | .subAlImm8 _ => 2
  | .subAxImm16 _ => 3
  | .subRm8Imm8 o _ => o.count + 1
  | .subRm16Imm16 o _ => o.count + 2
  | .subRm8Imm8S o _ => o.count + 1
  | .subRm16Imm8 o _ => o.count + 1
  | .cmpRm8R8 o _ => o.count
  | .cmpRm16R16 o _ => o.count
  | .cmpR8Rm8 _ o => o.count
  | .cmpR16Rm16 _ o => o.count
  | .cmpAlImm8 _ => 2
  | .cmpAxImm16 _ => 3
  | .cmpRm8Imm8 o _ => o.count + 1
  | .cmpRm16Imm16 o _ => o.count + 2
  | .cmpRm8Imm8S o _ => o.count + 1
  | .cmpRm16Imm8 o _ => o.count + 1
  | .jo _ => 2
  | .jno _ => 2
  | .jb _ => 2
  | .jnb _ => 2
  | .je _ => 2
  | .jne _ => 2
  | .js _ => 2
  | .jns _ => 2
  | .jp _ => 2
  | .jnp _ => 2
  | .jl _ => 2
  | .jnl _ => 2
  | .loopnz _ => 2
  | .loopz _ => 2
  | .loop _ => 2
  | .jcxz _ => 2

/-- The length of a decoded instruction; the placeholder is 1 byte (40_decoder.md R95). -/
def Decoded.len : Decoded → Nat
  | .known i => i.len
  | .unrecognized => 1

/-! ## The decoded record (40_decoder.md R86, R87) -/

/-- A memory operand as an operand of 40_decoder.md R87. -/
def MemRef.operand : MemRef → Operand
  | .ea e => .ea e
  | .direct a => .direct a

def Rm8.operand : Rm8 → Operand
  | .reg r => .reg (.r8 r)
  | .mem m => m.operand

def Rm16.operand : Rm16 → Operand
  | .reg r => .reg (.r16 r)
  | .mem m => m.operand

def Src8.operand : Src8 → Operand
  | .rm o => Rm8.operand o
  | .imm v => .imm8 v

def Src16.operand : Src16 → Operand
  | .rm o => Rm16.operand o
  | .imm v => .imm16 v
  | .immSext v => .imm8 v

/-- The record of an instruction of width 8. -/
def record8 (op : Opcode) (dst : Rm8) (src : Src8) (len : Nat) : Record :=
  ⟨op, some .w8, some (Rm8.operand dst), some src.operand, len⟩

/-- The record of an instruction of width 16. -/
def record16 (op : Opcode) (dst : Rm16) (src : Src16) (len : Nat) : Record :=
  ⟨op, some .w16, some (Rm16.operand dst), some src.operand, len⟩

/-- The record of a conditional jump: its destination is the displacement, it has no source. -/
def recordJcc (c : Cond) (d : Byte) : Record := ⟨.conditionalJump c, none, some (.imm8 d), none, 2⟩

/-- The record of an instruction. -/
def Instr.record (i : Instr) : Record :=
  match i with
  | .movRm8R8 o r => record8 (.move .rm) o (.rm (.reg r)) i.len
  | .movRm16R16 o r => record16 (.move .rm) o (.rm (.reg r)) i.len
  | .movR8Rm8 r o => record8 (.move .rm) (.reg r) (.rm o) i.len
  | .movR16Rm16 r o => record16 (.move .rm) (.reg r) (.rm o) i.len
  | .movR8Imm8 r v => record8 (.move .immReg) (.reg r) (.imm v) i.len
  | .movR16Imm16 r v => record16 (.move .immReg) (.reg r) (.imm v) i.len
  | .movRm8Imm8 o v => record8 (.move .movImmRm) o (.imm v) i.len
  | .movRm16Imm16 o v => record16 (.move .movImmRm) o (.imm v) i.len
  | .addRm8R8 o r => record8 (.arithmetic .add .rm) o (.rm (.reg r)) i.len
  | .addRm16R16 o r => record16 (.arithmetic .add .rm) o (.rm (.reg r)) i.len
  | .addR8Rm8 r o => record8 (.arithmetic .add .rm) (.reg r) (.rm o) i.len
  | .addR16Rm16 r o => record16 (.arithmetic .add .rm) (.reg r) (.rm o) i.len
  | .addAlImm8 v => record8 (.arithmetic .add .immAcc) (.reg .al) (.imm v) i.len
  | .addAxImm16 v => record16 (.arithmetic .add .immAcc) (.reg .ax) (.imm v) i.len
  | .addRm8Imm8 o v => record8 (.arithmetic .add .immRm) o (.imm v) i.len
  | .addRm16Imm16 o v => record16 (.arithmetic .add .immRm) o (.imm v) i.len
  | .addRm8Imm8S o v => record8 (.arithmetic .add .immRm) o (.imm v) i.len
  | .addRm16Imm8 o v => record16 (.arithmetic .add .immRm) o (.immSext v) i.len
  | .subRm8R8 o r => record8 (.arithmetic .sub .rm) o (.rm (.reg r)) i.len
  | .subRm16R16 o r => record16 (.arithmetic .sub .rm) o (.rm (.reg r)) i.len
  | .subR8Rm8 r o => record8 (.arithmetic .sub .rm) (.reg r) (.rm o) i.len
  | .subR16Rm16 r o => record16 (.arithmetic .sub .rm) (.reg r) (.rm o) i.len
  | .subAlImm8 v => record8 (.arithmetic .sub .immAcc) (.reg .al) (.imm v) i.len
  | .subAxImm16 v => record16 (.arithmetic .sub .immAcc) (.reg .ax) (.imm v) i.len
  | .subRm8Imm8 o v => record8 (.arithmetic .sub .immRm) o (.imm v) i.len
  | .subRm16Imm16 o v => record16 (.arithmetic .sub .immRm) o (.imm v) i.len
  | .subRm8Imm8S o v => record8 (.arithmetic .sub .immRm) o (.imm v) i.len
  | .subRm16Imm8 o v => record16 (.arithmetic .sub .immRm) o (.immSext v) i.len
  | .cmpRm8R8 o r => record8 (.arithmetic .cmp .rm) o (.rm (.reg r)) i.len
  | .cmpRm16R16 o r => record16 (.arithmetic .cmp .rm) o (.rm (.reg r)) i.len
  | .cmpR8Rm8 r o => record8 (.arithmetic .cmp .rm) (.reg r) (.rm o) i.len
  | .cmpR16Rm16 r o => record16 (.arithmetic .cmp .rm) (.reg r) (.rm o) i.len
  | .cmpAlImm8 v => record8 (.arithmetic .cmp .immAcc) (.reg .al) (.imm v) i.len
  | .cmpAxImm16 v => record16 (.arithmetic .cmp .immAcc) (.reg .ax) (.imm v) i.len
  | .cmpRm8Imm8 o v => record8 (.arithmetic .cmp .immRm) o (.imm v) i.len
  | .cmpRm16Imm16 o v => record16 (.arithmetic .cmp .immRm) o (.imm v) i.len
  | .cmpRm8Imm8S o v => record8 (.arithmetic .cmp .immRm) o (.imm v) i.len
  | .cmpRm16Imm8 o v => record16 (.arithmetic .cmp .immRm) o (.immSext v) i.len
  | .jo d => recordJcc .o d
  | .jno d => recordJcc .no d
  | .jb d => recordJcc .b d
  | .jnb d => recordJcc .nb d
  | .je d => recordJcc .e d
  | .jne d => recordJcc .ne d
  | .js d => recordJcc .s d
  | .jns d => recordJcc .ns d
  | .jp d => recordJcc .p d
  | .jnp d => recordJcc .np d
  | .jl d => recordJcc .l d
  | .jnl d => recordJcc .nl d
  | .loopnz d => recordJcc .loopnz d
  | .loopz d => recordJcc .loopz d
  | .loop d => recordJcc .loop d
  | .jcxz d => recordJcc .cxz d

/-- The record of a decoded instruction; the placeholder has no operand (40_decoder.md R95). -/
def Decoded.record : Decoded → Record
  | .known i => i.record
  | .unrecognized => ⟨.unrecognized, none, none, none, 1⟩

/-! ## The encoder -/

/-- The addressing-mode byte `mod reg r/m` (30_encoding.md R62). -/
def modRm (mod : BitVec 2) (reg rm : BitVec 3) : Byte := mod ++ reg ++ rm

/-- The addressing-mode byte, with `reg` in `b1[5:3]`, and the displacement bytes of an operand
(30_encoding.md R70 to R73). -/
def rmBytes {ρ : Type} (num : ρ → BitVec 3) (reg : BitVec 3) : Rm ρ → List Byte
  | .reg r => [modRm 3 reg (num r)]
  | .mem (.direct a) => [modRm 0 reg 6, lowByte a, highByte a]
  | .mem (.ea e) =>
    match e.disp with
    | .none => [modRm 0 reg (eaNum e.base e.index)]
    | .d8 v => [modRm 1 reg (eaNum e.base e.index), v]
    | .d16 v => [modRm 2 reg (eaNum e.base e.index), lowByte v, highByte v]

/-- A 16-bit immediate, low byte first (30_encoding.md R74). -/
def imm16Bytes (v : Word) : List Byte := [lowByte v, highByte v]

/-- Format RM at width 8 (30_encoding.md R62). -/
def encRm8 (b0 : Byte) (o : Rm8) (r : Reg8) : List Byte := b0 :: rmBytes reg8Num (reg8Num r) o

/-- Format RM at width 16 (30_encoding.md R62). -/
def encRm16 (b0 : Byte) (o : Rm16) (r : Reg16) : List Byte := b0 :: rmBytes reg16Num (reg16Num r) o

/-- Formats IMMRM and MOVIMMRM with an 8-bit register/memory operand (30_encoding.md R65, R66). -/
def encImm8 (b0 : Byte) (op : BitVec 3) (o : Rm8) (v : Byte) : List Byte :=
  b0 :: (rmBytes reg8Num op o ++ [v])

/-- Formats IMMRM and MOVIMMRM with a 16-bit operand and a 16-bit immediate
(30_encoding.md R65, R66). -/
def encImm16 (b0 : Byte) (op : BitVec 3) (o : Rm16) (v : Word) : List Byte :=
  b0 :: (rmBytes reg16Num op o ++ imm16Bytes v)

/-- Format IMMRM with s = 1, w = 1 (30_encoding.md R65, R74). -/
def encImmSext (b0 : Byte) (op : BitVec 3) (o : Rm16) (v : Byte) : List Byte :=
  b0 :: (rmBytes reg16Num op o ++ [v])

/-- The bytes of a well-formed instruction (30_encoding.md section 2); where the 8086 has two
encodings of one written instruction each is an instruction of its own (30_encoding.md R85). -/
def encode : Instr → List Byte
  | .movRm8R8 o r => encRm8 0x88 o r
  | .movRm16R16 o r => encRm16 0x89 o r
  | .movR8Rm8 r o => encRm8 0x8A o r
  | .movR16Rm16 r o => encRm16 0x8B o r
  | .movR8Imm8 r v => [0xB0 ||| (reg8Num r).zeroExtend 8, v]
  | .movR16Imm16 r v => (0xB8 ||| (reg16Num r).zeroExtend 8) :: imm16Bytes v
  | .movRm8Imm8 o v => encImm8 0xC6 0 o v
  | .movRm16Imm16 o v => encImm16 0xC7 0 o v
  | .addRm8R8 o r => encRm8 0x00 o r
  | .addRm16R16 o r => encRm16 0x01 o r
  | .addR8Rm8 r o => encRm8 0x02 o r
  | .addR16Rm16 r o => encRm16 0x03 o r
  | .addAlImm8 v => [0x04, v]
  | .addAxImm16 v => 0x05 :: imm16Bytes v
  | .addRm8Imm8 o v => encImm8 0x80 0 o v
  | .addRm16Imm16 o v => encImm16 0x81 0 o v
  | .addRm8Imm8S o v => encImm8 0x82 0 o v
  | .addRm16Imm8 o v => encImmSext 0x83 0 o v
  | .subRm8R8 o r => encRm8 0x28 o r
  | .subRm16R16 o r => encRm16 0x29 o r
  | .subR8Rm8 r o => encRm8 0x2A o r
  | .subR16Rm16 r o => encRm16 0x2B o r
  | .subAlImm8 v => [0x2C, v]
  | .subAxImm16 v => 0x2D :: imm16Bytes v
  | .subRm8Imm8 o v => encImm8 0x80 5 o v
  | .subRm16Imm16 o v => encImm16 0x81 5 o v
  | .subRm8Imm8S o v => encImm8 0x82 5 o v
  | .subRm16Imm8 o v => encImmSext 0x83 5 o v
  | .cmpRm8R8 o r => encRm8 0x38 o r
  | .cmpRm16R16 o r => encRm16 0x39 o r
  | .cmpR8Rm8 r o => encRm8 0x3A o r
  | .cmpR16Rm16 r o => encRm16 0x3B o r
  | .cmpAlImm8 v => [0x3C, v]
  | .cmpAxImm16 v => 0x3D :: imm16Bytes v
  | .cmpRm8Imm8 o v => encImm8 0x80 7 o v
  | .cmpRm16Imm16 o v => encImm16 0x81 7 o v
  | .cmpRm8Imm8S o v => encImm8 0x82 7 o v
  | .cmpRm16Imm8 o v => encImmSext 0x83 7 o v
  | .jo d => [0x70, d]
  | .jno d => [0x71, d]
  | .jb d => [0x72, d]
  | .jnb d => [0x73, d]
  | .je d => [0x74, d]
  | .jne d => [0x75, d]
  | .js d => [0x78, d]
  | .jns d => [0x79, d]
  | .jp d => [0x7A, d]
  | .jnp d => [0x7B, d]
  | .jl d => [0x7C, d]
  | .jnl d => [0x7D, d]
  | .loopnz d => [0xE0, d]
  | .loopz d => [0xE1, d]
  | .loop d => [0xE2, d]
  | .jcxz d => [0xE3, d]

/-! ## Words numbered as opcode_table.json numbers them -/

/-- The first six bytes of an instruction given as a number of the opcode table, zeros above its
`nbits` bits. A row with a two-byte match is numbered `b0 * 256 + b1` (30_encoding.md, "Reading
opcode_table.json"), every other row from `b0` up; the two kinds are told apart by the first bytes
that take a two-byte match.
DEDUCED (log entry 6). -/
def tableBytes (nbits w : Nat) : List Byte :=
  let v := w % 2 ^ nbits
  if nbits == 16 && needsSecond (BitVec.ofNat 8 (v / 256)) then
    [BitVec.ofNat 8 (v / 256), BitVec.ofNat 8 v, 0, 0, 0, 0]
  else
    (List.range 6).map fun k => BitVec.ofNat 8 (v / 256 ^ k)

/-- The instruction the decoder reads from a word of the opcode table. -/
def decodeTableWord (nbits w : Nat) : Option Instr :=
  match decode (tableBytes nbits w) with
  | .ok (.known i) => some i
  | _ => none

end Sys2Proof
end

