-- ==== Sys2Proof/Machine/State.lean ====
section
/-! DEFINITION. The state of the block (10_state.md), the reasons a run halts, and the state right
after reset. -/

namespace Sys2Proof.Machine

/-- Why a run has halted (60_exceptions.md R176). Every one is a state of the machine, not a fault
of the model: `raise` of Machine/Ops.lean enters it (log entry 1). -/
inductive HaltReason where
  /-- The normal end: a step found `ip >= L`. -/
  | endOfStream
  /-- The buffer ends before a byte the instruction needs. -/
  | truncatedInstruction
  /-- The classifier matched nothing. -/
  | unrecognizedOpcode
  /-- A register-to-register Move between registers of different widths. -/
  | typeMismatch
  /-- The instruction decoded but this block cannot apply it. -/
  | unsupportedOperation
deriving DecidableEq, Repr

/-- The run state CTRL holds (10_state.md R37). -/
inductive RunState where
  | running
  | halted (r : HaltReason)
deriving DecidableEq, Repr

/-- The register file: eight 16-bit cells; the 8-bit names are views of four of them
(10_state.md R23, R25). -/
structure RegFile where
  ax : Word
  bx : Word
  cx : Word
  dx : Word
  sp : Word
  bp : Word
  si : Word
  di : Word
deriving DecidableEq, Repr

/-- The data memory as the list of its non-zero bytes, by rising address (20_memory.md R41); an
address that is not listed reads as 0x00, its reset value (10_state.md R39). -/
abbrev Memory := List Host.Cell

/-- The canonical form: addresses strictly rising and below 65,536, no listed byte equal to 0x00. -/
abbrev Memory.wf (m : Memory) : Prop :=
  m.Pairwise (fun c d => c.1 < d.1) ∧ ∀ c ∈ m, c.1 < 65536 ∧ c.2 ≠ 0

/-- Everything the spec gives the machine (10_state.md R23, R37, R38), and the launch inputs that
every step reads and none writes (00_scope.md R7, R9; log entries 2 and 3). -/
structure State where
  regs     : RegFile
  ip       : Word
  zf       : Bool
  sf       : Bool
  mem      : Memory
  runState : RunState
  /-- The decode-only cursor; execute mode does not use it (10_state.md R38). -/
  cursor   : Nat
  /-- The instruction buffer BUF; its length is `L`. -/
  buf      : List Byte
  /-- The open parameters. -/
  config   : Config
deriving DecidableEq, Repr

/-- Reasons a step stops with a fault: none. Every error the spec names is a halt, which is a next
state whose run state is `halted` (60_exceptions.md R182; log entry 1). -/
inductive Fault
deriving DecidableEq, Repr

/-- Reasons the model gives no meaning. -/
inductive Refusal where
  /-- Raised by an arm of `exec` whose instruction has no meaning yet; no arm raises it. Safe. -/
  | notModelled (mnemonic : String)
  /-- Raised by `step` when the instruction buffer is longer than 65,536 bytes, which is no legal
  launch input (00_scope.md R7, 93_implementation_defined.md I9; log entry 5). Safe. -/
  | illegalLaunch
deriving DecidableEq, Repr

/-- The eight registers all zero (10_state.md R39). -/
def RegFile.zero : RegFile := ⟨0, 0, 0, 0, 0, 0, 0, 0⟩

/-- A run right after its reset, with the launch inputs loaded (70_reset_and_hazards.md R192). -/
def State.launch (config : Config) (buf : List Byte) : State where
  regs := RegFile.zero
  ip := 0
  zf := false
  sf := false
  mem := []
  runState := .running
  cursor := 0
  buf := buf
  config := config

/-- The machine right after reset (10_state.md R39).
DESIGN CHOICE (log entries 3 and 4): the launch inputs are the empty buffer and `Config.chosen`. -/
def State.reset : State := State.launch Config.chosen []

end Sys2Proof.Machine
end

