-- ==== Sys2Proof/Machine/Ops.lean ====
section
/-! DEFINITION. The named operations over registers, memory, flags, `ip` and the run state that
every meaning is built from (00_scope.md R14, 10_state.md, 20_memory.md), and the one operation that
raises an error (60_exceptions.md R182). -/

namespace Sys2Proof.Machine

/-- What one step answers. -/
abbrev Outcome := Host.Outcome State Fault Refusal

/-! ## Register file (10_state.md R24 to R30) -/

/-- `x[R16]` (R26). -/
def RegFile.get16 (f : RegFile) : Reg16 → Word
  | .ax => f.ax | .cx => f.cx | .dx => f.dx | .bx => f.bx
  | .sp => f.sp | .bp => f.bp | .si => f.si | .di => f.di

/-- `x[R16] <- v` (R27). -/
def RegFile.set16 (f : RegFile) (r : Reg16) (v : Word) : RegFile :=
  match r with
  | .ax => { f with ax := v } | .cx => { f with cx := v } | .dx => { f with dx := v }
  | .bx => { f with bx := v } | .sp => { f with sp := v } | .bp => { f with bp := v }
  | .si => { f with si := v } | .di => { f with di := v }

/-- Which half of its cell a view names. -/
inductive Half where
  | low | high
deriving DecidableEq, Repr

/-- The byte of a word that a half names (R26). -/
def Half.of (h : Half) (v : Word) : Byte :=
  match h with
  | .low => lowByte v
  | .high => highByte v

/-- A word with one half replaced and the other kept (R28). -/
def Half.replace (h : Half) (v : Word) (b : Byte) : Word :=
  match h with
  | .low => joinBytes (highByte v) b
  | .high => joinBytes b (lowByte v)

/-- AX, BX, CX and DX have 8-bit halves; SP, BP, SI and DI have none (R24). -/
def aliasable : Reg16 → Bool
  | .ax => true | .bx => true | .cx => true | .dx => true
  | .sp => false | .bp => false | .si => false | .di => false

/-- The cell an 8-bit name is a view of (R25). -/
def cellOf : Reg8 → Reg16
  | .al => .ax | .ah => .ax | .bl => .bx | .bh => .bx
  | .cl => .cx | .ch => .cx | .dl => .dx | .dh => .dx

/-- The half of its cell an 8-bit name is (R25). -/
def halfOf : Reg8 → Half
  | .al => .low | .bl => .low | .cl => .low | .dl => .low
  | .ah => .high | .bh => .high | .ch => .high | .dh => .high

/-- `x[RL]`, `x[RH]` (R26). -/
def RegFile.get8 (f : RegFile) (r : Reg8) : Byte := (halfOf r).of (f.get16 (cellOf r))

/-- `x[RL] <- v`, `x[RH] <- v` (R28). -/
def RegFile.set8 (f : RegFile) (r : Reg8) (v : Byte) : RegFile :=
  f.set16 (cellOf r) ((halfOf r).replace (f.get16 (cellOf r)) v)

/-- The register file's half-view read, over any 16-bit name: an Unsupported-Operation error for a
register without halves (R29). No instruction asks for such a view. -/
def RegFile.readHalf (f : RegFile) (r : Reg16) (h : Half) : Except HaltReason Byte :=
  if aliasable r then .ok (h.of (f.get16 r)) else .error .unsupportedOperation

/-- The register file's half-view write, over any 16-bit name (R29). -/
def RegFile.writeHalf (f : RegFile) (r : Reg16) (h : Half) (v : Byte) : Except HaltReason RegFile :=
  if aliasable r then .ok (f.set16 r (h.replace (f.get16 r) v)) else .error .unsupportedOperation

/-! ## Data memory (20_memory.md R45 to R49) -/

/-- The byte at an address; an address not listed reads as 0x00. -/
def Memory.readAt : Memory → Nat → Byte
  | [], _ => 0
  | (k, v) :: m, a => if k = a then v else Memory.readAt m a

/-- A cell put in before the first greater address. -/
def Memory.insertCell (a : Nat) (v : Byte) : Memory → Memory
  | [] => [(a, v)]
  | (k, w) :: m => if a < k then (a, v) :: (k, w) :: m else (k, w) :: Memory.insertCell a v m

/-- The byte at an address replaced; 0x00 leaves the address unlisted. -/
def Memory.writeAt (m : Memory) (a : Nat) (v : Byte) : Memory :=
  let others := m.filter fun c => c.1 != a
  if v = 0 then others else Memory.insertCell a v others

/-- `MemRead(a, 1)` (R45). -/
def Memory.read8 (m : Memory) (a : Word) : Byte := m.readAt a.toNat

/-- `MemRead(a, 2)`, little-endian, the address after 0xFFFF being 0x0000 (R46). -/
def Memory.read16 (m : Memory) (a : Word) : Word := joinBytes (m.read8 (a + 1)) (m.read8 a)

/-- `MemWrite(a, 1, v)` (R47). -/
def Memory.write8 (m : Memory) (a : Word) (v : Byte) : Memory := m.writeAt a.toNat v

/-- `MemWrite(a, 2, v)`, little-endian, the address after 0xFFFF being 0x0000 (R48). -/
def Memory.write16 (m : Memory) (a : Word) (v : Word) : Memory :=
  (m.write8 a (lowByte v)).write8 (a + 1) (highByte v)

/-! ## State updates -/

def State.setReg16 (s : State) (r : Reg16) (v : Word) : State := { s with regs := s.regs.set16 r v }

def State.setReg8 (s : State) (r : Reg8) (v : Byte) : State := { s with regs := s.regs.set8 r v }

def State.store8 (s : State) (a : Word) (v : Byte) : State := { s with mem := s.mem.write8 a v }

def State.store16 (s : State) (a : Word) (v : Word) : State := { s with mem := s.mem.write16 a v }

/-- Both flags written (42_arithmetic.md R122). -/
def State.setFlags (s : State) (zf sf : Bool) : State := { s with zf := zf, sf := sf }

/-- `ip <- t`. -/
def State.setIp (s : State) (t : Word) : State := { s with ip := t }

/-- `ip_next = ip +16 len` (10_state.md R32). -/
def State.ipNext (s : State) (len : Nat) : Word := s.ip + BitVec.ofNat 16 len

/-- The sequential advance of `ip` (10_state.md R32). -/
def State.advance (s : State) (len : Nat) : State := s.setIp (s.ipNext len)

/-- The run state becomes `Halted(r)` and nothing else changes (60_exceptions.md R182). -/
def State.halt (s : State) (r : HaltReason) : State := { s with runState := .halted r }

/-- `raise E`: how every error is taken. There is no vector, handler, saved state or mode to set,
and no return from it (60_exceptions.md R182, R185). -/
def raise (r : HaltReason) (s : State) : Outcome := .next (s.halt r)

/-- The numeric status code of a halt reason (60_exceptions.md R176). -/
def HaltReason.code : HaltReason → Nat
  | .endOfStream => 0
  | .truncatedInstruction => 1
  | .unrecognizedOpcode => 2
  | .typeMismatch => 3
  | .unsupportedOperation => 4

/-! ## Fetch -/

/-- DEC driven by `ip` (10_state.md R33). -/
def State.fetch (s : State) : DecOut := decodeAt s.buf s.ip.toNat

/-- The buffer with bytes placed at a position: padded with zeros up to it, cut at the greatest
legal length.
DESIGN CHOICE (log entry 7). -/
def placeBytes (buf : List Byte) (pos : Nat) (bytes : List Byte) : List Byte :=
  (buf.take pos ++ List.replicate (pos - buf.length) 0 ++ bytes ++ buf.drop (pos + bytes.length)).take
    bufferLimit

/-- The state in which the next step runs a word of the opcode table. -/
def State.withTableWord (s : State) (nbits w : Nat) : State :=
  { s with buf := placeBytes s.buf s.ip.toNat (tableBytes nbits w), runState := .running }

end Sys2Proof.Machine
end

