-- ==== Sys2Proof/Machine/Flags.lean ====
section
/-! DEFINITION. The ALU with its flags (42_arithmetic.md section 1) and the conditions the jumps
test (43_jump.md R157). -/

namespace Sys2Proof.Machine

/-- The ALU's outputs (00_scope.md R20). -/
structure AluOut (n : Nat) where
  r  : BitVec n
  zf : Bool
  sf : Bool
  we : Bool
deriving DecidableEq, Repr

/-- `zf = (r = 0)` (42_arithmetic.md R122). -/
def zeroFlag {n : Nat} (r : BitVec n) : Bool := r == 0

/-- `sf = r[N-1]` (42_arithmetic.md R122). -/
def signFlag {n : Nat} (r : BitVec n) : Bool := r.msb

/-- Add and Subtract are written back, Compare is not (42_arithmetic.md R119). -/
def writesBack : Family → Bool
  | .add => true
  | .sub => true
  | .cmp => false

/-- The result modulo `2^N` (42_arithmetic.md R120, R121). -/
def aluResult {n : Nat} (f : Family) (a b : BitVec n) : BitVec n :=
  match f with
  | .add => a + b
  | .sub => a - b
  | .cmp => a - b

/-- `ALU(op, N, a, b)` (42_arithmetic.md R119). -/
def alu {n : Nat} (f : Family) (a b : BitVec n) : AluOut n :=
  ⟨aluResult f a b, zeroFlag (aluResult f a b), signFlag (aluResult f a b), writesBack f⟩

/-- Whether a variant's jump is taken, or `none` when the two flags cannot tell
(43_jump.md R157). -/
def condition (c : Cond) (zf sf : Bool) : Option Bool :=
  match c with
  | .e => some zf
  | .ne => some (!zf)
  | .s => some sf
  | .ns => some (!sf)
  | .o => none
  | .no => none
  | .b => none
  | .nb => none
  | .p => none
  | .np => none
  | .l => none
  | .nl => none
  | .loopnz => none
  | .loopz => none
  | .loop => none
  | .cxz => none

end Sys2Proof.Machine
end

