-- ==== Sys2Proof/Machine/Operands.lean ====
section
/-! DEFINITION. Operand access at execution: AGU's address computation (40_decoder.md R92), `Val`
and `Store` (41_move.md R108, R109), and the Move executor's width check (41_move.md R110). -/

namespace Sys2Proof.Machine

/-- The register a base names. -/
def baseReg : BaseReg → Reg16
  | .bx => .bx | .bp => .bp | .si => .si | .di => .di

/-- The register an index names. -/
def indexReg : IndexReg → Reg16
  | .si => .si | .di => .di

/-- The index's share of the address sum. -/
def indexValue (f : RegFile) : Option IndexReg → Word
  | none => 0
  | some i => f.get16 (indexReg i)

/-- The displacement's share of the address sum, an 8-bit one sign-extended. -/
def dispValue : Disp → Word
  | .none => 0
  | .d8 v => sext16 v
  | .d16 v => v

/-- `Addr(op)`: the 16-bit address of a memory operand, modulo 2^16 (40_decoder.md R92). -/
def address (f : RegFile) : MemRef → Word
  | .ea e => f.get16 (baseReg e.base) + indexValue f e.index + dispValue e.disp
  | .direct a => a

/-- `Val` of a register/memory operand at width 8. -/
def readRm8 (s : State) : Rm8 → Byte
  | .reg r => s.regs.get8 r
  | .mem m => s.mem.read8 (address s.regs m)

/-- `Val` of a register/memory operand at width 16. -/
def readRm16 (s : State) : Rm16 → Word
  | .reg r => s.regs.get16 r
  | .mem m => s.mem.read16 (address s.regs m)

/-- `Val` of a source at width 8. -/
def value8 (s : State) : Src8 → Byte
  | .rm o => readRm8 s o
  | .imm v => v

/-- `Val` of a source at width 16; an 8-bit immediate is sign-extended. -/
def value16 (s : State) : Src16 → Word
  | .rm o => readRm16 s o
  | .imm v => v
  | .immSext v => sext16 v

/-- `Store` at width 8, the address taken from the registers before the write. -/
def writeRm8 (s : State) (o : Rm8) (v : Byte) : State :=
  match o with
  | .reg r => s.setReg8 r v
  | .mem m => s.store8 (address s.regs m) v

/-- `Store` at width 16, the address taken from the registers before the write. -/
def writeRm16 (s : State) (o : Rm16) (v : Word) : State :=
  match o with
  | .reg r => s.setReg16 r v
  | .mem m => s.store16 (address s.regs m) v

/-- The operand is a memory operand. -/
def isMem {ρ : Type} : Rm ρ → Bool
  | .reg _ => false
  | .mem _ => true

/-- The width a register name carries (40_decoder.md R87). -/
def regWidth : RegName → Width
  | .r8 _ => .w8
  | .r16 _ => .w16

/-- The Move executor's check: a register-to-register Move of two widths is a Type-Mismatch
(41_move.md R110, 60_exceptions.md R179; log entry 9). -/
def moveCheck (dst src : Operand) : Option HaltReason :=
  match dst, src with
  | .reg d, .reg r => if regWidth d = regWidth r then none else some .typeMismatch
  | _, _ => none

end Sys2Proof.Machine
end

