-- ==== Sys2Proof/Machine/Execute.lean ====
section
/-! DEFINITION. The executions shared by the instructions of a family: `exec_move` (41_move.md R110),
`exec_arith` (42_arithmetic.md R124) and `exec_jcc` (43_jump.md R156). Reads see the state before the
step and an error commits nothing (00_scope.md R15). -/

namespace Sys2Proof.Machine

/-- `exec_move` at width 8. -/
def execMove8 (dst : Rm8) (src : Src8) (len : Nat) (s : State) : Outcome :=
  match moveCheck (Rm8.operand dst) src.operand with
  | some e => raise e s
  | none => .next ((writeRm8 s dst (value8 s src)).advance len)

/-- `exec_move` at width 16. -/
def execMove16 (dst : Rm16) (src : Src16) (len : Nat) (s : State) : Outcome :=
  match moveCheck (Rm16.operand dst) src.operand with
  | some e => raise e s
  | none => .next ((writeRm16 s dst (value16 s src)).advance len)

/-- `exec_arith` at width 8, governed by `P_ARITH8` (42_arithmetic.md R123). -/
def execArith8 (f : Family) (dst : Rm8) (src : Src8) (len : Nat) (s : State) : Outcome :=
  if s.config.arith8 = .refuse then raise .unsupportedOperation s
  else if writesBack f && isMem dst then raise .unsupportedOperation s
  else
    let out := alu f (readRm8 s dst) (value8 s src)
    .next (((if out.we then writeRm8 s dst out.r else s).setFlags out.zf out.sf).advance len)

/-- `exec_arith` at width 16. -/
def execArith16 (f : Family) (dst : Rm16) (src : Src16) (len : Nat) (s : State) : Outcome :=
  if writesBack f && isMem dst then raise .unsupportedOperation s
  else
    let out := alu f (readRm16 s dst) (value16 s src)
    .next (((if out.we then writeRm16 s dst out.r else s).setFlags out.zf out.sf).advance len)

/-- The target of a taken jump: the next instruction's address plus the signed displacement, modulo
2^16 (43_jump.md R158). -/
def jumpTarget (s : State) (d : Byte) : Word := s.ipNext 2 + sext16 d

/-- `exec_jcc`. -/
def execJcc (c : Cond) (d : Byte) (s : State) : Outcome :=
  match condition c s.zf s.sf with
  | none => raise .unsupportedOperation s
  | some true => .next (s.setIp (jumpTarget s d))
  | some false => .next (s.advance 2)

end Sys2Proof.Machine
end

