-- ==== Sys2Proof/Machine/Add.lean ====
section
/-! DEFINITION. The ten Add instructions (42_arithmetic.md section 3). -/

namespace Sys2Proof.Machine

/-- ADD r/m8, r8 (R126). -/
def execAddRm8R8 (dst : Rm8) (src : Reg8) (s : State) : Outcome :=
  execArith8 .add dst (.rm (.reg src)) (Instr.len (.addRm8R8 dst src)) s

/-- ADD r/m16, r16 (R127). -/
def execAddRm16R16 (dst : Rm16) (src : Reg16) (s : State) : Outcome :=
  execArith16 .add dst (.rm (.reg src)) (Instr.len (.addRm16R16 dst src)) s

/-- ADD r8, r/m8 (R128). -/
def execAddR8Rm8 (dst : Reg8) (src : Rm8) (s : State) : Outcome :=
  execArith8 .add (.reg dst) (.rm src) (Instr.len (.addR8Rm8 dst src)) s

/-- ADD r16, r/m16 (R129). -/
def execAddR16Rm16 (dst : Reg16) (src : Rm16) (s : State) : Outcome :=
  execArith16 .add (.reg dst) (.rm src) (Instr.len (.addR16Rm16 dst src)) s

/-- ADD AL, imm8 (R130). -/
def execAddAlImm8 (imm : Byte) (s : State) : Outcome :=
  execArith8 .add (.reg .al) (.imm imm) (Instr.len (.addAlImm8 imm)) s

/-- ADD AX, imm16 (R131). -/
def execAddAxImm16 (imm : Word) (s : State) : Outcome :=
  execArith16 .add (.reg .ax) (.imm imm) (Instr.len (.addAxImm16 imm)) s

/-- ADD r/m8, imm8 (R132). -/
def execAddRm8Imm8 (dst : Rm8) (imm : Byte) (s : State) : Outcome :=
  execArith8 .add dst (.imm imm) (Instr.len (.addRm8Imm8 dst imm)) s

/-- ADD r/m16, imm16 (R133). -/
def execAddRm16Imm16 (dst : Rm16) (imm : Word) (s : State) : Outcome :=
  execArith16 .add dst (.imm imm) (Instr.len (.addRm16Imm16 dst imm)) s

/-- ADD r/m8, imm8 (s = 1) (R134). -/
def execAddRm8Imm8S (dst : Rm8) (imm : Byte) (s : State) : Outcome :=
  execArith8 .add dst (.imm imm) (Instr.len (.addRm8Imm8S dst imm)) s

/-- ADD r/m16, imm8 sign-extended (R135). -/
def execAddRm16Imm8 (dst : Rm16) (imm : Byte) (s : State) : Outcome :=
  execArith16 .add dst (.immSext imm) (Instr.len (.addRm16Imm8 dst imm)) s

end Sys2Proof.Machine
end

