-- ==== Sys2Proof/Machine/Compare.lean ====
section
/-! DEFINITION. The ten Compare instructions (42_arithmetic.md section 3). -/

namespace Sys2Proof.Machine

/-- CMP r/m8, r8 (R146). -/
def execCmpRm8R8 (dst : Rm8) (src : Reg8) (s : State) : Outcome :=
  execArith8 .cmp dst (.rm (.reg src)) (Instr.len (.cmpRm8R8 dst src)) s

/-- CMP r/m16, r16 (R147). -/
def execCmpRm16R16 (dst : Rm16) (src : Reg16) (s : State) : Outcome :=
  execArith16 .cmp dst (.rm (.reg src)) (Instr.len (.cmpRm16R16 dst src)) s

/-- CMP r8, r/m8 (R148). -/
def execCmpR8Rm8 (dst : Reg8) (src : Rm8) (s : State) : Outcome :=
  execArith8 .cmp (.reg dst) (.rm src) (Instr.len (.cmpR8Rm8 dst src)) s

/-- CMP r16, r/m16 (R149). -/
def execCmpR16Rm16 (dst : Reg16) (src : Rm16) (s : State) : Outcome :=
  execArith16 .cmp (.reg dst) (.rm src) (Instr.len (.cmpR16Rm16 dst src)) s

/-- CMP AL, imm8 (R150). -/
def execCmpAlImm8 (imm : Byte) (s : State) : Outcome :=
  execArith8 .cmp (.reg .al) (.imm imm) (Instr.len (.cmpAlImm8 imm)) s

/-- CMP AX, imm16 (R151). -/
def execCmpAxImm16 (imm : Word) (s : State) : Outcome :=
  execArith16 .cmp (.reg .ax) (.imm imm) (Instr.len (.cmpAxImm16 imm)) s

/-- CMP r/m8, imm8 (R152). -/
def execCmpRm8Imm8 (dst : Rm8) (imm : Byte) (s : State) : Outcome :=
  execArith8 .cmp dst (.imm imm) (Instr.len (.cmpRm8Imm8 dst imm)) s

/-- CMP r/m16, imm16 (R153). -/
def execCmpRm16Imm16 (dst : Rm16) (imm : Word) (s : State) : Outcome :=
  execArith16 .cmp dst (.imm imm) (Instr.len (.cmpRm16Imm16 dst imm)) s

/-- CMP r/m8, imm8 (s = 1) (R154). -/
def execCmpRm8Imm8S (dst : Rm8) (imm : Byte) (s : State) : Outcome :=
  execArith8 .cmp dst (.imm imm) (Instr.len (.cmpRm8Imm8S dst imm)) s

/-- CMP r/m16, imm8 sign-extended (R155). -/
def execCmpRm16Imm8 (dst : Rm16) (imm : Byte) (s : State) : Outcome :=
  execArith16 .cmp dst (.immSext imm) (Instr.len (.cmpRm16Imm8 dst imm)) s

end Sys2Proof.Machine
end

