-- ==== Sys2Proof/Machine/Jump.lean ====
section
/-! DEFINITION. The sixteen conditional jumps (43_jump.md section 2). -/

namespace Sys2Proof.Machine

/-- JO rel8: not evaluable by this block (R160). -/
def execJo (disp : Byte) (s : State) : Outcome := execJcc .o disp s

/-- JNO rel8: not evaluable by this block (R161). -/
def execJno (disp : Byte) (s : State) : Outcome := execJcc .no disp s

/-- JB rel8: not evaluable by this block (R162). -/
def execJb (disp : Byte) (s : State) : Outcome := execJcc .b disp s

/-- JNB rel8: not evaluable by this block (R163). -/
def execJnb (disp : Byte) (s : State) : Outcome := execJcc .nb disp s

/-- JE rel8: taken when ZF = 1 (R164). -/
def execJe (disp : Byte) (s : State) : Outcome := execJcc .e disp s

/-- JNE rel8: taken when ZF = 0 (R165). -/
def execJne (disp : Byte) (s : State) : Outcome := execJcc .ne disp s

/-- JS rel8: taken when SF = 1 (R166). -/
def execJs (disp : Byte) (s : State) : Outcome := execJcc .s disp s

/-- JNS rel8: taken when SF = 0 (R167). -/
def execJns (disp : Byte) (s : State) : Outcome := execJcc .ns disp s

/-- JP rel8: not evaluable by this block (R168). -/
def execJp (disp : Byte) (s : State) : Outcome := execJcc .p disp s

/-- JNP rel8: not evaluable by this block (R169). -/
def execJnp (disp : Byte) (s : State) : Outcome := execJcc .np disp s

/-- JL rel8: not evaluable by this block (R170). -/
def execJl (disp : Byte) (s : State) : Outcome := execJcc .l disp s

/-- JNL rel8: not evaluable by this block (R171). -/
def execJnl (disp : Byte) (s : State) : Outcome := execJcc .nl disp s

/-- LOOPNZ rel8: not evaluable by this block (R172). -/
def execLoopnz (disp : Byte) (s : State) : Outcome := execJcc .loopnz disp s

/-- LOOPZ rel8: not evaluable by this block (R173). -/
def execLoopz (disp : Byte) (s : State) : Outcome := execJcc .loopz disp s

/-- LOOP rel8: not evaluable by this block (R174). -/
def execLoop (disp : Byte) (s : State) : Outcome := execJcc .loop disp s

/-- JCXZ rel8: not evaluable by this block (R175). -/
def execJcxz (disp : Byte) (s : State) : Outcome := execJcc .cxz disp s

end Sys2Proof.Machine
end

