-- ==== Sys2Proof/Machine/Move.lean ====
section
/-! DEFINITION. The eight Move instructions (41_move.md section 3). -/

namespace Sys2Proof.Machine

/-- MOV r/m8, r8 (R111). -/
def execMovRm8R8 (dst : Rm8) (src : Reg8) (s : State) : Outcome :=
  execMove8 dst (.rm (.reg src)) (Instr.len (.movRm8R8 dst src)) s

/-- MOV r/m16, r16 (R112). -/
def execMovRm16R16 (dst : Rm16) (src : Reg16) (s : State) : Outcome :=
  execMove16 dst (.rm (.reg src)) (Instr.len (.movRm16R16 dst src)) s

/-- MOV r8, r/m8 (R113). -/
def execMovR8Rm8 (dst : Reg8) (src : Rm8) (s : State) : Outcome :=
  execMove8 (.reg dst) (.rm src) (Instr.len (.movR8Rm8 dst src)) s

/-- MOV r16, r/m16 (R114). -/
def execMovR16Rm16 (dst : Reg16) (src : Rm16) (s : State) : Outcome :=
  execMove16 (.reg dst) (.rm src) (Instr.len (.movR16Rm16 dst src)) s

/-- MOV r8, imm8 (R115). -/
def execMovR8Imm8 (dst : Reg8) (imm : Byte) (s : State) : Outcome :=
  execMove8 (.reg dst) (.imm imm) (Instr.len (.movR8Imm8 dst imm)) s

/-- MOV r16, imm16 (R116). -/
def execMovR16Imm16 (dst : Reg16) (imm : Word) (s : State) : Outcome :=
  execMove16 (.reg dst) (.imm imm) (Instr.len (.movR16Imm16 dst imm)) s

/-- MOV r/m8, imm8; its memory form is governed by `P_MOVB_MEM` (R117). -/
def execMovRm8Imm8 (dst : Rm8) (imm : Byte) (s : State) : Outcome :=
  if isMem dst && s.config.movbMem == .refuse then raise .unsupportedOperation s
  else execMove8 dst (.imm imm) (Instr.len (.movRm8Imm8 dst imm)) s

/-- MOV r/m16, imm16 (R118). -/
def execMovRm16Imm16 (dst : Rm16) (imm : Word) (s : State) : Outcome :=
  execMove16 dst (.imm imm) (Instr.len (.movRm16Imm16 dst imm)) s

end Sys2Proof.Machine
end

