-- ==== Sys2Proof/Machine/Subtract.lean ====
section
/-! DEFINITION. The ten Subtract instructions (42_arithmetic.md section 3). -/

namespace Sys2Proof.Machine

/-- SUB r/m8, r8 (R136). -/
def execSubRm8R8 (dst : Rm8) (src : Reg8) (s : State) : Outcome :=
  execArith8 .sub dst (.rm (.reg src)) (Instr.len (.subRm8R8 dst src)) s

/-- SUB r/m16, r16 (R137). -/
def execSubRm16R16 (dst : Rm16) (src : Reg16) (s : State) : Outcome :=
  execArith16 .sub dst (.rm (.reg src)) (Instr.len (.subRm16R16 dst src)) s

/-- SUB r8, r/m8 (R138). -/
def execSubR8Rm8 (dst : Reg8) (src : Rm8) (s : State) : Outcome :=
  execArith8 .sub (.reg dst) (.rm src) (Instr.len (.subR8Rm8 dst src)) s

/-- SUB r16, r/m16 (R139). -/
def execSubR16Rm16 (dst : Reg16) (src : Rm16) (s : State) : Outcome :=
  execArith16 .sub (.reg dst) (.rm src) (Instr.len (.subR16Rm16 dst src)) s

/-- SUB AL, imm8 (R140). -/
def execSubAlImm8 (imm : Byte) (s : State) : Outcome :=
  execArith8 .sub (.reg .al) (.imm imm) (Instr.len (.subAlImm8 imm)) s

/-- SUB AX, imm16 (R141). -/
def execSubAxImm16 (imm : Word) (s : State) : Outcome :=
  execArith16 .sub (.reg .ax) (.imm imm) (Instr.len (.subAxImm16 imm)) s

/-- SUB r/m8, imm8 (R142). -/
def execSubRm8Imm8 (dst : Rm8) (imm : Byte) (s : State) : Outcome :=
  execArith8 .sub dst (.imm imm) (Instr.len (.subRm8Imm8 dst imm)) s

/-- SUB r/m16, imm16 (R143). -/
def execSubRm16Imm16 (dst : Rm16) (imm : Word) (s : State) : Outcome :=
  execArith16 .sub dst (.imm imm) (Instr.len (.subRm16Imm16 dst imm)) s

/-- SUB r/m8, imm8 (s = 1) (R144). -/
def execSubRm8Imm8S (dst : Rm8) (imm : Byte) (s : State) : Outcome :=
  execArith8 .sub dst (.imm imm) (Instr.len (.subRm8Imm8S dst imm)) s

/-- SUB r/m16, imm8 sign-extended (R145). -/
def execSubRm16Imm8 (dst : Rm16) (imm : Byte) (s : State) : Outcome :=
  execArith16 .sub dst (.immSext imm) (Instr.len (.subRm16Imm8 dst imm)) s

end Sys2Proof.Machine
end

