-- ==== Sys2Proof/Machine/Control.lean ====
section
/-! DEFINITION. CTRL: one step of the run loop (70_reset_and_hazards.md R195). -/

namespace Sys2Proof.Machine

/-- The launch inputs are legal: the buffer has at most 65,536 bytes (00_scope.md R7). -/
def launchLegal (s : State) : Bool := s.buf.length ≤ bufferLimit

/-- What CTRL does with the decoder's output (60_exceptions.md R176 to R178, R181). -/
def perform (out : DecOut) (s : State) : Outcome :=
  match out with
  | .endOfBuffer => raise .endOfStream s
  | .truncated => raise .truncatedInstruction s
  | .ok .unrecognized => raise .unrecognizedOpcode s
  | .ok (.known i) => exec i s

/-- One step on legal launch inputs: nothing on a halted block (60_exceptions.md R185), else decode
at `ip` and execute. -/
def controlStep (s : State) : Outcome :=
  match s.runState with
  | .halted _ => .next s
  | .running => perform s.fetch s

end Sys2Proof.Machine
end

