-- ==== Sys2Proof/Machine/Step.lean ====
section
/-! DEFINITION. The step function, and the state in which the next step runs a given word. -/

namespace Sys2Proof.Machine

/-- One step of the block (70_reset_and_hazards.md R195); a launch that is not legal has no
behaviour and is refused by name (log entry 5). -/
def step (s : State) : Host.Outcome State Fault Refusal :=
  if launchLegal s then controlStep s else .refused .illegalLaunch

/-- `s` with a word of the opcode table placed in the buffer at `ip`, so that the next step runs it
(log entries 4, 6 and 7). -/
def State.withFetchWord (s : State) (nbits w : Nat) : State := s.withTableWord nbits w

end Sys2Proof.Machine
end

