-- ==== Sys2Proof/Machine/DecodeOnly.lean ====
section
/-! DEFINITION. Decode-only mode: DEC driven by its own cursor, nothing executed (00_scope.md R22,
10_state.md R38, 40_decoder.md R106). -/

namespace Sys2Proof.Machine

/-- One call in decode-only mode: the decoder's output at the cursor, and the state after it. A
decoded instruction, the placeholder included, advances the cursor by its length; nothing else
changes.
DESIGN CHOICE (log entry 8): a call after the end of a sequence decodes at the cursor again, and a
buffer longer than 65,536 bytes, no legal launch input, is decoded like any other, past position 65,535
too; `step` refuses such a buffer. -/
def decodeNext (s : State) : DecOut × State :=
  match decodeAt s.buf s.cursor with
  | .ok d => (.ok d, { s with cursor := s.cursor + d.len })
  | out => (out, s)

/-- How a decode-only sequence ends (40_decoder.md R106). -/
inductive ListingEnd where
  /-- After `End`. -/
  | endOfBuffer
  /-- After `Truncated`, reported as a Truncated-Instruction error. -/
  | truncated
  /-- Right after an emitted Unrecognized placeholder. -/
  | unrecognized
  /-- The host stopped asking: the bound on the calls ran out. -/
  | bound
deriving DecidableEq, Repr

/-- At most `n` calls in decode-only mode: the instructions emitted, how the sequence ends, and the
state after it. -/
def listing : Nat → State → List Decoded × ListingEnd × State
  | 0, s => ([], .bound, s)
  | n + 1, s =>
    match decodeNext s with
    | (.endOfBuffer, s') => ([], .endOfBuffer, s')
    | (.truncated, s') => ([], .truncated, s')
    | (.ok .unrecognized, s') => ([.unrecognized], .unrecognized, s')
    | (.ok (.known i), s') =>
      match listing n s' with
      | (ds, e, s'') => (.known i :: ds, e, s'')

end Sys2Proof.Machine
end

