-- ==== Sys2Proof/Machine/Observe.lean ====
section
/-! DEFINITION. The observation port (00_scope.md R21, 10_state.md R40) and what the step port
reports (00_scope.md R21). -/

namespace Sys2Proof.Machine

/-- What the host sees of the block between two steps. -/
structure Observation where
  regs      : RegFile
  /-- The non-zero memory cells. -/
  cells     : List Host.Cell
  zf        : Bool
  sf        : Bool
  ip        : Word
  /-- `Running` or `Halted(reason)`. -/
  runState  : RunState
deriving DecidableEq, Repr

/-- The observation of a state. -/
def observe (s : State) : Observation := ⟨s.regs, s.mem, s.zf, s.sf, s.ip, s.runState⟩

/-- The status code of a halted run (60_exceptions.md R176); a running block has none. -/
def haltCode (s : State) : Option Nat :=
  match s.runState with
  | .running => none
  | .halted r => some r.code

end Sys2Proof.Machine
end

