-- ==== Sys2Proof/Safety.lean ====
section
/-! DEFINITION. What the statements call a good state and a safe run. -/

namespace Sys2Proof.Machine

/-- The invariant of the block: the data memory is in canonical form, the buffer is a legal launch
input, and the decode-only cursor has not passed the end of the buffer. -/
structure State.Inv (s : State) : Prop where
  mem    : Memory.wf s.mem
  buf    : s.buf.length ≤ bufferLimit
  cursor : s.cursor ≤ s.buf.length

/-- The block is running. -/
abbrev Running (s : State) : Prop := s.runState = .running

/-- The block has halted for a reason. -/
abbrev HaltedFor (s : State) (r : HaltReason) : Prop := s.runState = .halted r

/-- A run of `k` steps is safe when none of them is refused or faults. -/
def SafeRun (k : Nat) (s : State) : Prop := ∃ t, Sys2Proof.core.run k s = .next t

end Sys2Proof.Machine
end

