-- ==== Sys2Proof/Certificates/Slice0/Obligations.lean ====
section
/-! DEFINITION. The statements for the provers. A docstring names the rule a statement formalises, and
where a clause rests on a decision of the spec (92_eei_decisions.md) or on general knowledge the spec
adopts, it says so. No statement rests on the launch inputs `State.reset` carries. -/

namespace Sys2Proof.Claims

open Sys2Proof.Machine

/-! ## Vocabulary of the statements -/

/-- The launch inputs are legal (00_scope.md R7). -/
abbrev Legal (s : State) : Prop := s.buf.length ≤ bufferLimit

/-- The state an 8-bit Add or Subtract leaves: the result `r` in `d`, the flags of the 8-bit result,
`ip` past the `n` bytes of the instruction. -/
def arith8 (s : State) (d : Reg8) (r : Byte) (n : Nat) : State :=
  { s with regs := s.regs.set8 d r, zf := decide (r.toNat = 0), sf := decide (128 ≤ r.toNat),
           ip := s.ip + BitVec.ofNat 16 n }

/-- The state a 16-bit Add or Subtract leaves. -/
def arith16 (s : State) (d : Reg16) (r : Word) (n : Nat) : State :=
  { s with regs := s.regs.set16 d r, zf := decide (r.toNat = 0), sf := decide (32768 ≤ r.toNat),
           ip := s.ip + BitVec.ofNat 16 n }

/-- The state an 8-bit Compare leaves: nothing but the flags and `ip` change. -/
def compare8 (s : State) (r : Byte) (n : Nat) : State :=
  { s with zf := decide (r.toNat = 0), sf := decide (128 ≤ r.toNat), ip := s.ip + BitVec.ofNat 16 n }

/-- The state a 16-bit Compare leaves. -/
def compare16 (s : State) (r : Word) (n : Nat) : State :=
  { s with zf := decide (r.toNat = 0), sf := decide (32768 ≤ r.toNat),
           ip := s.ip + BitVec.ofNat 16 n }

/-- The run halted with Unsupported-Operation, nothing else changed. -/
def unsupported (s : State) : State := { s with runState := .halted .unsupportedOperation }

/-- Every register but the 8-bit `d` and the cell it is a view of is unchanged. -/
def KeepsRegsBut8 (d : Reg8) (s t : State) : Prop :=
  (∀ q, q ≠ d → t.regs.get8 q = s.regs.get8 q) ∧
    ∀ q, q ≠ cellOf d → t.regs.get16 q = s.regs.get16 q

/-- Every register but the 16-bit `d` and its halves is unchanged. -/
def KeepsRegsBut16 (d : Reg16) (s t : State) : Prop :=
  (∀ q, q ≠ d → t.regs.get16 q = s.regs.get16 q) ∧
    ∀ q, cellOf q ≠ d → t.regs.get8 q = s.regs.get8 q

/-- Every register is unchanged. -/
def KeepsRegs (s t : State) : Prop :=
  (∀ q, t.regs.get16 q = s.regs.get16 q) ∧ ∀ q, t.regs.get8 q = s.regs.get8 q

/-- Both flags are unchanged. -/
def KeepsFlags (s t : State) : Prop := t.zf = s.zf ∧ t.sf = s.sf

/-- Every byte of memory is unchanged. -/
def KeepsMemory (s t : State) : Prop := ∀ a : Word, t.mem.read8 a = s.mem.read8 a

/-- The decode-only cursor and the launch inputs are unchanged, and the run state too unless the run
halted with Unsupported-Operation. -/
def KeepsRest (s t : State) : Prop :=
  t.cursor = s.cursor ∧ t.buf = s.buf ∧ t.config = s.config ∧
    (t.runState = s.runState ∨ t.runState = .halted .unsupportedOperation)

/-- The instruction is a conditional jump. -/
def IsJump (i : Instr) : Prop := ∃ c, i.record.opcode = .conditionalJump c

/-- The instruction is an Add, a Subtract or a Compare. -/
def IsArithmetic (i : Instr) : Prop := ∃ f v, i.record.opcode = .arithmetic f v

/-- The operand is in memory. -/
def MemoryOperand (o : Option Operand) : Prop := (∃ e, o = some (.ea e)) ∨ ∃ a, o = some (.direct a)

/-- The destination of the instruction names the register, or a half of it. -/
def Names (i : Instr) (q : Reg16) : Prop :=
  i.record.dst = some (.reg (.r16 q)) ∨ ∃ r, i.record.dst = some (.reg (.r8 r)) ∧ cellOf r = q

end Sys2Proof.Claims

open Sys2Proof Sys2Proof.Machine Sys2Proof.Claims

/-! ## Decoding and encoding -/

/-- Words of the source's scenarios and of the spec's tables decode to the instructions they stand for
(95_test_vectors.md sections 1.1, 2.2 and 2.6). -/
def Obligations.SpecWordsDecode : Prop :=
  decode [0xB8, 0x05, 0x00] = .ok (.known (.movR16Imm16 .ax 5)) ∧
    decode [0x29, 0xD8] = .ok (.known (.subRm16R16 (.reg .ax) .bx)) ∧
    decode [0x89] = .truncated ∧
    decode [0x75, 0xFE] = .ok (.known (.jne 0xFE)) ∧
    decode [0x88, 0xE0] = .ok (.known (.movRm8R8 (.reg .al) .ah)) ∧
    decode [0x8B, 0x46, 0xFE] = .ok (.known (.movR16Rm16 .ax (.mem (.ea ⟨.bp, none, .d8 0xFE⟩)))) ∧
    decode [0x83, 0xC3, 0xFF] = .ok (.known (.addRm16Imm8 (.reg .bx) 0xFF)) ∧
    decode [0x82, 0xC3, 0xFF] = .ok (.known (.addRm8Imm8S (.reg .bl) 0xFF)) ∧
    decode [0x81, 0x3E, 0x00, 0x02, 0x34, 0x12] =
      .ok (.known (.cmpRm16Imm16 (.mem (.direct 0x0200)) 0x1234)) ∧
    decode [0xC7, 0x06, 0x00, 0x02, 0x34, 0x12] =
      .ok (.known (.movRm16Imm16 (.mem (.direct 0x0200)) 0x1234)) ∧
    decode [0xE3, 0x05] = .ok (.known (.jcxz 5)) ∧
    decode [0x80, 0xCB, 0x01] = .ok .unrecognized ∧
    decode [0x76, 0x00] = .ok .unrecognized ∧ decode [] = .endOfBuffer

/-- Decoding what the encoder writes gives the instruction back, whatever follows it. -/
def Obligations.DecodeInvertsEncode : Prop :=
  ∀ (i : Instr) (rest : List Byte), i.wf = true → decode (encode i ++ rest) = .ok (.known i)

/-- An instruction read by the decoder is well formed, and the bytes it was read from are the ones the
encoder writes for it: no bit of an accepted encoding is ignored. -/
def Obligations.EncodeInvertsDecode : Prop :=
  ∀ (bytes : List Byte) (i : Instr), decode bytes = .ok (.known i) →
    i.wf = true ∧ bytes.take i.len = encode i ∧ i.len ≤ bytes.length

/-- The decoder answers Truncated exactly on the non-empty proper prefixes of encodings. A lone byte
that classification needs a second byte for is one of them by decision D21. -/
def Obligations.TruncatedIffProperPrefix : Prop :=
  ∀ bytes : List Byte, decode bytes = .truncated ↔
    ∃ (i : Instr) (k : Nat), i.wf = true ∧ 0 < k ∧ k < i.len ∧ bytes = (encode i).take k

/-- Round trip on immediate to register (R107): the register numbers, row by row, in the decoder's and
the encoder's direction; the encoder's layout; and decoding followed by encoding reproduces the bytes.
The sixteen rows are the table of 30_encoding.md R68, which the spec adopts by decision D5. -/
def Obligations.ImmediateToRegisterRoundTrip : Prop :=
  (∀ p ∈ [((0 : BitVec 3), Reg16.ax, Reg8.al), (1, .cx, .cl), (2, .dx, .dl), (3, .bx, .bl),
      (4, .sp, .ah), (5, .bp, .ch), (6, .si, .dh), (7, .di, .bh)],
    reg16Of p.1 = p.2.1 ∧ reg16Num p.2.1 = p.1 ∧ reg8Of p.1 = p.2.2 ∧ reg8Num p.2.2 = p.1) ∧
    (∀ (r : Reg8) (v : Byte), encode (.movR8Imm8 r v) = [0xB0 ||| (reg8Num r).zeroExtend 8, v]) ∧
    (∀ (r : Reg16) (v : Word),
      encode (.movR16Imm16 r v) =
        [0xB8 ||| (reg16Num r).zeroExtend 8, v.extractLsb' 0 8, v.extractLsb' 8 8]) ∧
    ∀ (b0 : Byte) (rest : List Byte) (i : Instr),
      b0 &&& 0xF0 = 0xB0 → decode (b0 :: rest) = .ok (.known i) →
        ((∃ r v, i = .movR8Imm8 r v) ∨ ∃ r v, i = .movR16Imm16 r v) ∧
          encode i = (b0 :: rest).take i.len

/-- The Unrecognized space is exactly the one the spec lists; its second-byte cases are decisions D15
and D16. -/
def Obligations.UnrecognizedSpace : Prop :=
  ∀ (b0 : Byte) (rest : List Byte), decode (b0 :: rest) = .ok .unrecognized ↔
    (0x06 ≤ b0 ∧ b0 ≤ 0x27) ∨ (0x2E ≤ b0 ∧ b0 ≤ 0x37) ∨ (0x3E ≤ b0 ∧ b0 ≤ 0x6F) ∨
      (0x76 ≤ b0 ∧ b0 ≤ 0x77) ∨ (0x7E ≤ b0 ∧ b0 ≤ 0x7F) ∨ (0x84 ≤ b0 ∧ b0 ≤ 0x87) ∨
      (0x8C ≤ b0 ∧ b0 ≤ 0xAF) ∨ (0xC0 ≤ b0 ∧ b0 ≤ 0xC5) ∨ (0xC8 ≤ b0 ∧ b0 ≤ 0xDF) ∨ 0xE4 ≤ b0 ∨
      (0x80 ≤ b0 ∧ b0 ≤ 0x83 ∧ ∃ b1 tail, rest = b1 :: tail ∧ regField b1 ∈ [1, 2, 3, 4, 6]) ∨
      (0xC6 ≤ b0 ∧ b0 ≤ 0xC7 ∧ ∃ b1 tail, rest = b1 :: tail ∧ regField b1 ≠ 0)

/-- No two rows of the classifier's table match one pair of bytes, so the order of the rows never
changes what the classifier answers, and its rows cover 60 first bytes. -/
def Obligations.ClassifierOrderIrrelevant : Prop :=
  (∀ r ∈ opcodeTable, ∀ q ∈ opcodeTable, ∀ (b0 : Byte) (b1 : Option Byte),
      r.hits b0 b1 = true → q.hits b0 b1 = true → r = q) ∧
    (∀ (rows : List OpcodeRow) (b0 : Byte) (b1 : Option Byte), rows.Perm opcodeTable →
      classifyIn rows b0 b1 = classifyIn opcodeTable b0 b1) ∧
    ((List.range 256).filter fun n => opcodeTable.any fun r => r.fits (BitVec.ofNat 8 n)).length = 60

/-- The count the resolver returns, and the displacement bytes it takes (R90). -/
def Obligations.ResolverByteCount : Prop :=
  ∀ (ρ : Type) (name : BitVec 3 → ρ) (mod : BitVec 2) (rm : BitVec 3) (rest rest' : List Byte)
    (o : Rm ρ), resolve name mod rm rest = some (o, rest') →
    ((mod = 3 ∨ (mod = 0 ∧ rm ≠ 6)) → o.count = 2) ∧ (mod = 1 → o.count = 3) ∧
      ((mod = 2 ∨ (mod = 0 ∧ rm = 6)) → o.count = 4) ∧ rest = rest.take (o.count - 2) ++ rest' ∧
      o.count - 2 ≤ rest.length

/-- The eight rows of the effective-address table in each of its three modes, and the direct address,
read through `mov ax, r/m` (30_encoding.md section 4; all rows but 000 and 110 are the 8086's, which
the spec adopts by decision D7; the byte order of a direct address is D29). -/
def Obligations.EffectiveAddressRows : Prop :=
  (∀ p ∈ [((0x00 : Byte), BaseReg.bx, some IndexReg.si), (0x01, .bx, some .di), (0x02, .bp, some .si),
      (0x03, .bp, some .di), (0x04, .si, none), (0x05, .di, none), (0x07, .bx, none)],
    ∀ rest, decode (0x8B :: p.1 :: rest) =
      .ok (.known (.movR16Rm16 .ax (.mem (.ea ⟨p.2.1, p.2.2, .none⟩))))) ∧
    (∀ p ∈ [((0x40 : Byte), BaseReg.bx, some IndexReg.si), (0x41, .bx, some .di),
      (0x42, .bp, some .si), (0x43, .bp, some .di), (0x44, .si, none), (0x45, .di, none),
      (0x46, .bp, none), (0x47, .bx, none)],
    ∀ d rest, decode (0x8B :: p.1 :: d :: rest) =
      .ok (.known (.movR16Rm16 .ax (.mem (.ea ⟨p.2.1, p.2.2, .d8 d⟩))))) ∧
    (∀ p ∈ [((0x80 : Byte), BaseReg.bx, some IndexReg.si), (0x81, .bx, some .di),
      (0x82, .bp, some .si), (0x83, .bp, some .di), (0x84, .si, none), (0x85, .di, none),
      (0x86, .bp, none), (0x87, .bx, none)],
    ∀ lo hi rest, decode (0x8B :: p.1 :: lo :: hi :: rest) =
      .ok (.known (.movR16Rm16 .ax (.mem (.ea ⟨p.2.1, p.2.2, .d16 (hi ++ lo)⟩))))) ∧
    ∀ lo hi rest, decode (0x8B :: 0x06 :: lo :: hi :: rest) =
      .ok (.known (.movR16Rm16 .ax (.mem (.direct (hi ++ lo)))))

/-- Form RM assembles as its pseudocode says (R97): operands by `d`, width by `w`, length by the
resolver, Truncated when a needed byte is missing. -/
def Obligations.RmFormAssembly : Prop :=
  ∀ p ∈ [((0x88 : Byte), Opcode.move .rm), (0x00, .arithmetic .add .rm), (0x28, .arithmetic .sub .rm),
      (0x38, .arithmetic .cmp .rm)],
    ∀ b0 : Byte, b0 &&& 0xFC = p.1 →
      decode [b0] = .truncated ∧
        ∀ (b1 : Byte) (rest : List Byte),
          (b0.getLsbD 0 = true →
            (resolve reg16Of (modField b1) (rmField b1) rest = none →
              decode (b0 :: b1 :: rest) = .truncated) ∧
            ∀ o rest', resolve reg16Of (modField b1) (rmField b1) rest = some (o, rest') →
              ∃ i, decode (b0 :: b1 :: rest) = .ok (.known i) ∧
                i.record = ⟨p.2, some .w16,
                  some (if b0.getLsbD 1 then .reg (.r16 (reg16Of (regField b1))) else Rm16.operand o),
                  some (if b0.getLsbD 1 then Rm16.operand o else .reg (.r16 (reg16Of (regField b1)))),
                  o.count⟩) ∧
          (b0.getLsbD 0 = false →
            (resolve reg8Of (modField b1) (rmField b1) rest = none →
              decode (b0 :: b1 :: rest) = .truncated) ∧
            ∀ o rest', resolve reg8Of (modField b1) (rmField b1) rest = some (o, rest') →
              ∃ i, decode (b0 :: b1 :: rest) = .ok (.known i) ∧
                i.record = ⟨p.2, some .w8,
                  some (if b0.getLsbD 1 then .reg (.r8 (reg8Of (regField b1))) else Rm8.operand o),
                  some (if b0.getLsbD 1 then Rm8.operand o else .reg (.r8 (reg8Of (regField b1)))),
                  o.count⟩)

/-- Form IMMREG assembles as its pseudocode says (R98), Truncated when an immediate byte is missing. -/
def Obligations.ImmRegFormAssembly : Prop :=
  ∀ b0 : Byte, b0 &&& 0xF0 = 0xB0 →
    (b0.getLsbD 3 = false → decode [b0] = .truncated ∧
      ∀ b1 rest, ∃ i, decode (b0 :: b1 :: rest) = .ok (.known i) ∧
        i.record = ⟨.move .immReg, some .w8, some (.reg (.r8 (reg8Of (b0.extractLsb' 0 3)))),
          some (.imm8 b1), 2⟩) ∧
    (b0.getLsbD 3 = true → decode [b0] = .truncated ∧ (∀ b1, decode [b0, b1] = .truncated) ∧
      ∀ b1 b2 rest, ∃ i, decode (b0 :: b1 :: b2 :: rest) = .ok (.known i) ∧
        i.record = ⟨.move .immReg, some .w16, some (.reg (.r16 (reg16Of (b0.extractLsb' 0 3)))),
          some (.imm16 (b2 ++ b1)), 3⟩)

/-- Forms IMMACC and MOVIMMRM assemble as the spec's pseudocode says (40_decoder.md section 3): the
accumulator, or the resolved operand, is the destination. That MOVIMMRM is a Move at all is decision
D16, and the little-endian 16-bit immediate is D29. -/
def Obligations.ImmAccAndMovImmRmAssembly : Prop :=
  (∀ p ∈ [((0x04 : Byte), Family.add), (0x2C, .sub), (0x3C, .cmp)],
      ∀ b0 : Byte, b0 &&& 0xFE = p.1 →
        (b0.getLsbD 0 = false → decode [b0] = .truncated ∧
          ∀ b1 rest, ∃ i, decode (b0 :: b1 :: rest) = .ok (.known i) ∧
            i.record = ⟨.arithmetic p.2 .immAcc, some .w8, some (.reg (.r8 .al)), some (.imm8 b1), 2⟩) ∧
        (b0.getLsbD 0 = true → decode [b0] = .truncated ∧ (∀ b1, decode [b0, b1] = .truncated) ∧
          ∀ b1 b2 rest, ∃ i, decode (b0 :: b1 :: b2 :: rest) = .ok (.known i) ∧
            i.record = ⟨.arithmetic p.2 .immAcc, some .w16, some (.reg (.r16 .ax)),
              some (.imm16 (b2 ++ b1)), 3⟩)) ∧
    ∀ (b1 : Byte) (rest : List Byte), regField b1 = 0 →
      ((resolve reg16Of (modField b1) (rmField b1) rest = none →
          decode (0xC7 :: b1 :: rest) = .truncated) ∧
        ∀ o rest', resolve reg16Of (modField b1) (rmField b1) rest = some (o, rest') →
          (rest'.length < 2 → decode (0xC7 :: b1 :: rest) = .truncated) ∧
          ∀ lo hi tail, rest' = lo :: hi :: tail →
            ∃ i, decode (0xC7 :: b1 :: rest) = .ok (.known i) ∧
              i.record = ⟨.move .movImmRm, some .w16, some (Rm16.operand o), some (.imm16 (hi ++ lo)),
                o.count + 2⟩) ∧
      ((resolve reg8Of (modField b1) (rmField b1) rest = none →
          decode (0xC6 :: b1 :: rest) = .truncated) ∧
        ∀ o rest', resolve reg8Of (modField b1) (rmField b1) rest = some (o, rest') →
          (rest' = [] → decode (0xC6 :: b1 :: rest) = .truncated) ∧
          ∀ v tail, rest' = v :: tail →
            ∃ i, decode (0xC6 :: b1 :: rest) = .ok (.known i) ∧
              i.record = ⟨.move .movImmRm, some .w8, some (Rm8.operand o), some (.imm8 v), o.count + 1⟩)

/-- Form IMMRM assembles as its pseudocode says (R100): the operand first, then a 16-bit immediate
when s = 0 and w = 1 and an 8-bit one otherwise, Truncated when a needed byte is missing. -/
def Obligations.ImmRmFormAssembly : Prop :=
  ∀ p ∈ [((0 : BitVec 3), Family.add), (5, .sub), (7, .cmp)],
    ∀ (b0 b1 : Byte) (rest : List Byte), b0 &&& 0xFC = 0x80 → regField b1 = p.1 →
      (b0.getLsbD 0 = true →
        (resolve reg16Of (modField b1) (rmField b1) rest = none →
          decode (b0 :: b1 :: rest) = .truncated) ∧
        ∀ o rest', resolve reg16Of (modField b1) (rmField b1) rest = some (o, rest') →
          (rest' = [] → decode (b0 :: b1 :: rest) = .truncated) ∧
          (b0.getLsbD 1 = true → ∀ v tail, rest' = v :: tail →
            ∃ i, decode (b0 :: b1 :: rest) = .ok (.known i) ∧
              i.record = ⟨.arithmetic p.2 .immRm, some .w16, some (Rm16.operand o), some (.imm8 v),
                o.count + 1⟩) ∧
          (b0.getLsbD 1 = false → (∀ lo, rest' = [lo] → decode (b0 :: b1 :: rest) = .truncated) ∧
            ∀ lo hi tail, rest' = lo :: hi :: tail →
              ∃ i, decode (b0 :: b1 :: rest) = .ok (.known i) ∧
                i.record = ⟨.arithmetic p.2 .immRm, some .w16, some (Rm16.operand o),
                  some (.imm16 (hi ++ lo)), o.count + 2⟩)) ∧
      (b0.getLsbD 0 = false →
        (resolve reg8Of (modField b1) (rmField b1) rest = none →
          decode (b0 :: b1 :: rest) = .truncated) ∧
        ∀ o rest', resolve reg8Of (modField b1) (rmField b1) rest = some (o, rest') →
          (rest' = [] → decode (b0 :: b1 :: rest) = .truncated) ∧
          ∀ v tail, rest' = v :: tail →
            ∃ i, decode (b0 :: b1 :: rest) = .ok (.known i) ∧
              i.record = ⟨.arithmetic p.2 .immRm, some .w8, some (Rm8.operand o), some (.imm8 v),
                o.count + 1⟩)

/-- Form JCC assembles as its pseudocode says (R102): each of the sixteen bytes is the jump of its own
variant, the displacement byte is the destination, the length is 2, and the second byte is needed. The
byte values are those of 30_encoding.md R80, which the spec adopts by decision D14 (0x75 is the
source's). -/
def Obligations.JccFormAssembly : Prop :=
  ∀ p ∈ [((0x70 : Byte), Cond.o, Instr.jo), (0x71, .no, .jno), (0x72, .b, .jb), (0x73, .nb, .jnb),
      (0x74, .e, .je), (0x75, .ne, .jne), (0x78, .s, .js), (0x79, .ns, .jns), (0x7A, .p, .jp),
      (0x7B, .np, .jnp), (0x7C, .l, .jl), (0x7D, .nl, .jnl), (0xE0, .loopnz, .loopnz),
      (0xE1, .loopz, .loopz), (0xE2, .loop, .loop), (0xE3, .cxz, .jcxz)],
    decode [p.1] = .truncated ∧
      ∀ d rest, decode (p.1 :: d :: rest) = .ok (.known (p.2.2 d)) ∧
        (p.2.2 d).record = ⟨.conditionalJump p.2.1, none, some (.imm8 d), none, 2⟩

/-! ## Registers, memory, operands, the ALU -/

/-- The 8-bit names are views of their cells: reads (R26), whole writes (R27), half writes (R28). -/
def Obligations.HalfRegisterViews : Prop :=
  (∀ p ∈ [(Reg8.al, Reg16.ax), (.bl, .bx), (.cl, .cx), (.dl, .dx)], ∀ (f : RegFile) (v : Byte),
    (f.get8 p.1).toNat = (f.get16 p.2).toNat % 256 ∧
      (f.set8 p.1 v).get16 p.2 = (f.get16 p.2).extractLsb' 8 8 ++ v ∧
      ∀ q, q ≠ p.2 → (f.set8 p.1 v).get16 q = f.get16 q) ∧
    (∀ p ∈ [(Reg8.ah, Reg16.ax), (.bh, .bx), (.ch, .cx), (.dh, .dx)], ∀ (f : RegFile) (v : Byte),
      (f.get8 p.1).toNat = (f.get16 p.2).toNat / 256 ∧
        (f.set8 p.1 v).get16 p.2 = v ++ (f.get16 p.2).extractLsb' 0 8 ∧
        ∀ q, q ≠ p.2 → (f.set8 p.1 v).get16 q = f.get16 q) ∧
    ∀ (f : RegFile) (r q : Reg16) (v : Word),
      (f.set16 r v).get16 q = if q = r then v else f.get16 q

/-- SP, BP, SI and DI have no half views, and asking for one is an Unsupported-Operation; every 8-bit
name is a view the register file has (10_state.md section 2). -/
def Obligations.PointerRegistersHaveNoHalves : Prop :=
  (∀ r ∈ [Reg16.sp, .bp, .si, .di], ∀ (f : RegFile) (h : Half) (v : Byte),
    f.readHalf r h = .error .unsupportedOperation ∧
      f.writeHalf r h v = .error .unsupportedOperation) ∧
    ∀ (f : RegFile) (r : Reg8) (v : Byte),
      f.readHalf (cellOf r) (halfOf r) = .ok (f.get8 r) ∧
        f.writeHalf (cellOf r) (halfOf r) v = .ok (f.set8 r v)

/-- Words in memory are little-endian at any address, the byte after 0xFFFF being at 0x0000 (decision
D9), and byte and word accesses see the same bytes (20_memory.md sections 2 and 3). -/
def Obligations.WordMemoryIsLittleEndian : Prop :=
  ∀ (m : Memory) (a : Word),
    (m.read16 a).toNat =
        256 * (m.read8 (BitVec.ofNat 16 ((a.toNat + 1) % 65536))).toNat + (m.read8 a).toNat ∧
      (∀ v : Word, (m.write16 a v).read16 a = v ∧ ((m.write16 a v).read8 a).toNat = v.toNat % 256 ∧
        ((m.write16 a v).read8 (a + 1)).toNat = v.toNat / 256 ∧
        ∀ b, b ≠ a → b ≠ a + 1 → (m.write16 a v).read8 b = m.read8 b) ∧
      ∀ p q : Byte, (((m.write8 a p).write8 (a + 1) q).read16 a).toNat = 256 * q.toNat + p.toNat

/-- An effective address is the sum of base, index and displacement modulo 2^16 (decision D8), an
8-bit displacement being signed; a direct address is itself (40_decoder.md section 2). -/
def Obligations.EffectiveAddressSum : Prop :=
  ∀ f : RegFile,
    (∀ (b : BaseReg) (x : Option IndexReg) (d : Disp),
      address f (.ea ⟨b, x, d⟩) = BitVec.ofInt 16
        ((match b with
          | .bx => (f.bx.toNat : Int) | .bp => (f.bp.toNat : Int)
          | .si => (f.si.toNat : Int) | .di => (f.di.toNat : Int)) +
        (match x with
          | none => (0 : Int) | some .si => (f.si.toNat : Int) | some .di => (f.di.toNat : Int)) +
        (match d with
          | .none => (0 : Int) | .d8 v => v.toInt | .d16 v => (v.toNat : Int)))) ∧
      ∀ a, address f (.direct a) = a

/-- The value of an operand at the instruction's width (R108): a register, an immediate, an 8-bit
immediate sign-extended at width 16, a byte or a word of memory. -/
def Obligations.OperandValues : Prop :=
  ∀ s : State,
    (∀ r, value8 s (.rm (.reg r)) = s.regs.get8 r) ∧ (∀ v, value8 s (.imm v) = v) ∧
      (∀ m, value8 s (.rm (.mem m)) = s.mem.read8 (address s.regs m)) ∧
      (∀ r, value16 s (.rm (.reg r)) = s.regs.get16 r) ∧ (∀ v, value16 s (.imm v) = v) ∧
      (∀ v, (value16 s (.immSext v)).toInt = v.toInt) ∧
      ∀ m, value16 s (.rm (.mem m)) = s.mem.read16 (address s.regs m)

/-- The ALU's result is the sum or the difference modulo `2^N`, its flags are those of the wrapped
result, and Compare is not written back (42_arithmetic.md section 1; the wrapping and the flags of the
wrapped result are decision D19). -/
def Obligations.AluResultsAndFlags : Prop :=
  ∀ (n : Nat) (a b : BitVec n), 0 < n →
    (alu .add a b).r.toNat = (a.toNat + b.toNat) % 2 ^ n ∧
      (∀ f ∈ [Family.sub, .cmp], (alu f a b).r.toNat = (a.toNat + 2 ^ n - b.toNat) % 2 ^ n) ∧
      ∀ f : Family, ((alu f a b).zf = true ↔ (alu f a b).r.toNat = 0) ∧
        ((alu f a b).sf = true ↔ 2 ^ (n - 1) ≤ (alu f a b).r.toNat) ∧
        ((alu f a b).we = true ↔ f ≠ .cmp)

/-! ## Moves -/

/-- Moves into an 8-bit register complete in every state (41_move.md section 3). -/
def Obligations.ByteMovesToRegister : Prop :=
  ∀ (s : State) (d q : Reg8) (m : MemRef) (v : Byte),
    exec (.movRm8R8 (.reg d) q) s =
        .next { s with regs := s.regs.set8 d (s.regs.get8 q), ip := s.ip + 2 } ∧
      exec (.movR8Rm8 d (.reg q)) s =
        .next { s with regs := s.regs.set8 d (s.regs.get8 q), ip := s.ip + 2 } ∧
      exec (.movR8Rm8 d (.mem m)) s =
        .next { s with regs := s.regs.set8 d (s.mem.read8 (address s.regs m)),
                       ip := s.ip + BitVec.ofNat 16 (2 + m.dispLen) } ∧
      exec (.movR8Imm8 d v) s = .next { s with regs := s.regs.set8 d v, ip := s.ip + 2 } ∧
      exec (.movRm8Imm8 (.reg d) v) s = .next { s with regs := s.regs.set8 d v, ip := s.ip + 3 }

/-- Moves into a 16-bit register complete in every state; the address of a memory source uses the
registers before the move (41_move.md section 3). -/
def Obligations.WordMovesToRegister : Prop :=
  ∀ (s : State) (d q : Reg16) (m : MemRef) (v : Word),
    exec (.movRm16R16 (.reg d) q) s =
        .next { s with regs := s.regs.set16 d (s.regs.get16 q), ip := s.ip + 2 } ∧
      exec (.movR16Rm16 d (.reg q)) s =
        .next { s with regs := s.regs.set16 d (s.regs.get16 q), ip := s.ip + 2 } ∧
      exec (.movR16Rm16 d (.mem m)) s =
        .next { s with regs := s.regs.set16 d (s.mem.read16 (address s.regs m)),
                       ip := s.ip + BitVec.ofNat 16 (2 + m.dispLen) } ∧
      exec (.movR16Imm16 d v) s = .next { s with regs := s.regs.set16 d v, ip := s.ip + 3 } ∧
      exec (.movRm16Imm16 (.reg d) v) s = .next { s with regs := s.regs.set16 d v, ip := s.ip + 4 }

/-- Moves into memory complete in every state, the byte immediate form under `P_MOVB_MEM = store8`
(decision D17); a byte move stores one byte, a word move two (41_move.md section 3). -/
def Obligations.MovesToMemory : Prop :=
  ∀ (s : State) (m : MemRef) (q : Reg8) (q' : Reg16) (v : Byte) (v' : Word),
    exec (.movRm8R8 (.mem m) q) s =
        .next { s with mem := s.mem.write8 (address s.regs m) (s.regs.get8 q),
                       ip := s.ip + BitVec.ofNat 16 (2 + m.dispLen) } ∧
      exec (.movRm16R16 (.mem m) q') s =
        .next { s with mem := s.mem.write16 (address s.regs m) (s.regs.get16 q'),
                       ip := s.ip + BitVec.ofNat 16 (2 + m.dispLen) } ∧
      (s.config.movbMem = .store8 → exec (.movRm8Imm8 (.mem m) v) s =
        .next { s with mem := s.mem.write8 (address s.regs m) v,
                       ip := s.ip + BitVec.ofNat 16 (3 + m.dispLen) }) ∧
      exec (.movRm16Imm16 (.mem m) v') s =
        .next { s with mem := s.mem.write16 (address s.regs m) v',
                       ip := s.ip + BitVec.ofNat 16 (4 + m.dispLen) }

/-- The immediate-to-register Moves as whole steps (R115, R116): the bytes at `ip`, the register
written, the other half kept, no flag changed, `ip` past the instruction, Truncated-Instruction when a
byte is missing, and the source's example. -/
def Obligations.ImmediateToRegisterSteps : Prop :=
  (∀ (s : State) (r : Reg8), Legal s → Running s →
    (∀ (v : Byte) (rest : List Byte),
      s.buf.drop s.ip.toNat = (0xB0 ||| (reg8Num r).zeroExtend 8) :: v :: rest →
        step s = .next { s with regs := s.regs.set8 r v, ip := s.ip + 2 }) ∧
    (s.buf.drop s.ip.toNat = [0xB0 ||| (reg8Num r).zeroExtend 8] →
      step s = .next { s with runState := .halted .truncatedInstruction })) ∧
    (∀ (s : State) (r : Reg16), Legal s → Running s →
      (∀ (lo hi : Byte) (rest : List Byte),
        s.buf.drop s.ip.toNat = (0xB8 ||| (reg16Num r).zeroExtend 8) :: lo :: hi :: rest →
          step s = .next { s with regs := s.regs.set16 r (hi ++ lo), ip := s.ip + 3 }) ∧
      (∀ bytes : List Byte, bytes.length < 2 →
        s.buf.drop s.ip.toNat = (0xB8 ||| (reg16Num r).zeroExtend 8) :: bytes →
          step s = .next { s with runState := .halted .truncatedInstruction })) ∧
    (∀ (f : RegFile) (r q : Reg8) (v : Byte),
      (f.set8 r v).get8 q = if q = r then v else f.get8 q) ∧
    ∀ (c : Config), ∃ t, step (State.launch c [0xB8, 0x05, 0x00]) = .next t ∧ t.regs.ax = 5 ∧
      t.zf = false ∧ t.ip = 3

/-! ## Arithmetic -/

/-- 8-bit Adds into a register complete under `P_ARITH8 = native8` (decision D18): the sum modulo 2^8
(D19), both flags of it, the other half of the register kept (42_arithmetic.md section 3). -/
def Obligations.ByteAdds : Prop :=
  ∀ (s : State) (d q : Reg8) (o : Rm8) (v : Byte), s.config.arith8 = .native8 →
    exec (.addRm8R8 (.reg d) q) s = .next (arith8 s d (s.regs.get8 d + s.regs.get8 q) 2) ∧
      exec (.addR8Rm8 d o) s = .next (arith8 s d (s.regs.get8 d + readRm8 s o) o.count) ∧
      exec (.addAlImm8 v) s = .next (arith8 s .al (s.regs.get8 .al + v) 2) ∧
      exec (.addRm8Imm8 (.reg d) v) s = .next (arith8 s d (s.regs.get8 d + v) 3) ∧
      exec (.addRm8Imm8S (.reg d) v) s = .next (arith8 s d (s.regs.get8 d + v) 3)

/-- 16-bit Adds into a register complete in every state: the sum modulo 2^16 (D19) and both flags of
it; an 8-bit immediate is sign-extended (42_arithmetic.md section 3). -/
def Obligations.WordAdds : Prop :=
  ∀ (s : State) (d q : Reg16) (o : Rm16) (v : Word) (b : Byte),
    exec (.addRm16R16 (.reg d) q) s = .next (arith16 s d (s.regs.get16 d + s.regs.get16 q) 2) ∧
      exec (.addR16Rm16 d o) s = .next (arith16 s d (s.regs.get16 d + readRm16 s o) o.count) ∧
      exec (.addAxImm16 v) s = .next (arith16 s .ax (s.regs.get16 .ax + v) 3) ∧
      exec (.addRm16Imm16 (.reg d) v) s = .next (arith16 s d (s.regs.get16 d + v) 4) ∧
      exec (.addRm16Imm8 (.reg d) b) s =
        .next (arith16 s d (s.regs.get16 d + BitVec.ofInt 16 b.toInt) 3)

/-- 8-bit Subtracts from a register complete under `P_ARITH8 = native8` (decision D18): the difference
modulo 2^8 (D19) and both flags of it (42_arithmetic.md section 3). -/
def Obligations.ByteSubtracts : Prop :=
  ∀ (s : State) (d q : Reg8) (o : Rm8) (v : Byte), s.config.arith8 = .native8 →
    exec (.subRm8R8 (.reg d) q) s = .next (arith8 s d (s.regs.get8 d - s.regs.get8 q) 2) ∧
      exec (.subR8Rm8 d o) s = .next (arith8 s d (s.regs.get8 d - readRm8 s o) o.count) ∧
      exec (.subAlImm8 v) s = .next (arith8 s .al (s.regs.get8 .al - v) 2) ∧
      exec (.subRm8Imm8 (.reg d) v) s = .next (arith8 s d (s.regs.get8 d - v) 3) ∧
      exec (.subRm8Imm8S (.reg d) v) s = .next (arith8 s d (s.regs.get8 d - v) 3)

/-- 16-bit Subtracts from a register complete in every state: the difference modulo 2^16 (D19) and both
flags of it; an 8-bit immediate is sign-extended (42_arithmetic.md section 3). -/
def Obligations.WordSubtracts : Prop :=
  ∀ (s : State) (d q : Reg16) (o : Rm16) (v : Word) (b : Byte),
    exec (.subRm16R16 (.reg d) q) s = .next (arith16 s d (s.regs.get16 d - s.regs.get16 q) 2) ∧
      exec (.subR16Rm16 d o) s = .next (arith16 s d (s.regs.get16 d - readRm16 s o) o.count) ∧
      exec (.subAxImm16 v) s = .next (arith16 s .ax (s.regs.get16 .ax - v) 3) ∧
      exec (.subRm16Imm16 (.reg d) v) s = .next (arith16 s d (s.regs.get16 d - v) 4) ∧
      exec (.subRm16Imm8 (.reg d) b) s =
        .next (arith16 s d (s.regs.get16 d - BitVec.ofInt 16 b.toInt) 3)

/-- 8-bit Compares complete under `P_ARITH8 = native8` (decision D18), a memory destination included
(D20): only the flags and `ip` change (42_arithmetic.md section 3). -/
def Obligations.ByteCompares : Prop :=
  ∀ (s : State) (d q : Reg8) (o : Rm8) (v : Byte), s.config.arith8 = .native8 →
    exec (.cmpRm8R8 o q) s = .next (compare8 s (readRm8 s o - s.regs.get8 q) o.count) ∧
      exec (.cmpR8Rm8 d o) s = .next (compare8 s (s.regs.get8 d - readRm8 s o) o.count) ∧
      exec (.cmpAlImm8 v) s = .next (compare8 s (s.regs.get8 .al - v) 2) ∧
      exec (.cmpRm8Imm8 o v) s = .next (compare8 s (readRm8 s o - v) (o.count + 1)) ∧
      exec (.cmpRm8Imm8S o v) s = .next (compare8 s (readRm8 s o - v) (o.count + 1))

/-- 16-bit Compares complete in every state, a memory destination included (decision D20): only the
flags and `ip` change; an 8-bit immediate is sign-extended (42_arithmetic.md section 3). -/
def Obligations.WordCompares : Prop :=
  ∀ (s : State) (d q : Reg16) (o : Rm16) (v : Word) (b : Byte),
    exec (.cmpRm16R16 o q) s = .next (compare16 s (readRm16 s o - s.regs.get16 q) o.count) ∧
      exec (.cmpR16Rm16 d o) s = .next (compare16 s (s.regs.get16 d - readRm16 s o) o.count) ∧
      exec (.cmpAxImm16 v) s = .next (compare16 s (s.regs.get16 .ax - v) 3) ∧
      exec (.cmpRm16Imm16 o v) s = .next (compare16 s (readRm16 s o - v) (o.count + 2)) ∧
      exec (.cmpRm16Imm8 o b) s =
        .next (compare16 s (readRm16 s o - BitVec.ofInt 16 b.toInt) (o.count + 1))

/-- Add and Subtract with a memory destination halt the run with Unsupported-Operation and change
nothing else, whatever the parameters (42_arithmetic.md section 2). -/
def Obligations.MemoryDestinationRefused : Prop :=
  ∀ (s : State) (m : MemRef) (q : Reg8) (q' : Reg16) (v : Byte) (v' : Word),
    ∀ i ∈ [Instr.addRm8R8 (.mem m) q, .addRm16R16 (.mem m) q', .addRm8Imm8 (.mem m) v,
        .addRm16Imm16 (.mem m) v', .addRm8Imm8S (.mem m) v, .addRm16Imm8 (.mem m) v,
        .subRm8R8 (.mem m) q, .subRm16R16 (.mem m) q', .subRm8Imm8 (.mem m) v,
        .subRm16Imm16 (.mem m) v', .subRm8Imm8S (.mem m) v, .subRm16Imm8 (.mem m) v],
      exec i s = .next (unsupported s)

/-- The refusals by parameter: under `P_ARITH8 = refuse` every arithmetic instruction of width 8
(decision D18), and under `P_MOVB_MEM = refuse` the byte immediate-to-memory move (decision D17), halts
the run with Unsupported-Operation and changes nothing else. -/
def Obligations.ParameterRefusals : Prop :=
  (∀ (s : State) (i : Instr), s.config.arith8 = .refuse → IsArithmetic i →
    i.record.width = some .w8 → exec i s = .next (unsupported s)) ∧
    ∀ (s : State) (m : MemRef) (v : Byte), s.config.movbMem = .refuse →
      exec (.movRm8Imm8 (.mem m) v) s = .next (unsupported s)

/-- Add then Subtract with the same operand value on a register (42_arithmetic.md section 2): any Add
form and any Subtract form of that destination, in any pairing, the value read by the second from the
state the first leaves. Every register and all of memory are restored and the flags are those of the
second operation, at width 16 always and at width 8 under `P_ARITH8 = native8` (decision D18). -/
def Obligations.AddThenSubtractRestores : Prop :=
  (∀ (s : State) (d : Reg16) (i j : Instr) (v w : ArithVariant) (a b : Src16),
    i.record = record16 (.arithmetic .add v) (.reg d) a i.len →
    j.record = record16 (.arithmetic .sub w) (.reg d) b j.len →
      ∃ t, exec i s = .next t ∧ (value16 t b = value16 s a →
        ∃ u, exec j t = .next u ∧ u.regs = s.regs ∧ u.mem = s.mem ∧
          u.zf = decide (s.regs.get16 d = 0) ∧ u.sf = (s.regs.get16 d).msb)) ∧
    ∀ (s : State) (d : Reg8) (i j : Instr) (v w : ArithVariant) (a b : Src8),
      s.config.arith8 = .native8 →
      i.record = record8 (.arithmetic .add v) (.reg d) a i.len →
      j.record = record8 (.arithmetic .sub w) (.reg d) b j.len →
        ∃ t, exec i s = .next t ∧ (value8 t b = value8 s a →
          ∃ u, exec j t = .next u ∧ u.regs = s.regs ∧ u.mem = s.mem ∧
            u.zf = decide (s.regs.get8 d = 0) ∧ u.sf = (s.regs.get8 d).msb)

/-! ## Jumps -/

/-- The four evaluable jumps complete in every state: taken, `ip` becomes the next instruction's
address plus the signed displacement modulo 2^16 (decision D11); not taken, it becomes `ip + 2` (D23);
nothing else changes (43_jump.md section 1). -/
def Obligations.EvaluableJumps : Prop :=
  ∀ (s : State) (d : Byte),
    exec (.je d) s = .next { s with ip := BitVec.ofInt 16 ((s.ip.toNat : Int) + 2 +
      if s.zf = true then d.toInt else 0) } ∧
    exec (.jne d) s = .next { s with ip := BitVec.ofInt 16 ((s.ip.toNat : Int) + 2 +
      if s.zf = false then d.toInt else 0) } ∧
    exec (.js d) s = .next { s with ip := BitVec.ofInt 16 ((s.ip.toNat : Int) + 2 +
      if s.sf = true then d.toInt else 0) } ∧
    exec (.jns d) s = .next { s with ip := BitVec.ofInt 16 ((s.ip.toNat : Int) + 2 +
      if s.sf = false then d.toInt else 0) }

/-- The twelve other jumps (R157): executing one halts the run with Unsupported-Operation and changes
nothing, `ip` and CX included; each still decodes, with length 2; and the evaluable four are the ones
whose condition the two flags decide. -/
def Obligations.UnevaluableJumpsHalt : Prop :=
  (∀ (s : State) (d : Byte),
    exec (.jo d) s = .next (unsupported s) ∧ exec (.jno d) s = .next (unsupported s) ∧
      exec (.jb d) s = .next (unsupported s) ∧ exec (.jnb d) s = .next (unsupported s) ∧
      exec (.jp d) s = .next (unsupported s) ∧ exec (.jnp d) s = .next (unsupported s) ∧
      exec (.jl d) s = .next (unsupported s) ∧ exec (.jnl d) s = .next (unsupported s) ∧
      exec (.loopnz d) s = .next (unsupported s) ∧ exec (.loopz d) s = .next (unsupported s) ∧
      exec (.loop d) s = .next (unsupported s) ∧ exec (.jcxz d) s = .next (unsupported s)) ∧
    (∀ d : Byte, ∀ i ∈ [Instr.jo d, .jno d, .jb d, .jnb d, .jp d, .jnp d, .jl d, .jnl d, .loopnz d,
        .loopz d, .loop d, .jcxz d],
      i.len = 2 ∧ ∃ b0, ∀ rest, decode (b0 :: d :: rest) = .ok (.known i)) ∧
    (∀ d : Byte, decode [0x74, d] = .ok (.known (.je d)) ∧ decode [0x75, d] = .ok (.known (.jne d)) ∧
      decode [0x78, d] = .ok (.known (.js d)) ∧ decode [0x79, d] = .ok (.known (.jns d))) ∧
    ∀ (c : Cond) (z g : Bool), (condition c z g = some true ↔
      (c = .e ∧ z = true) ∨ (c = .ne ∧ z = false) ∨ (c = .s ∧ g = true) ∨ (c = .ns ∧ g = false)) ∧
      (condition c z g = none ↔ c ≠ .e ∧ c ≠ .ne ∧ c ≠ .s ∧ c ≠ .ns)

/-! ## Frames -/

/-- A Move into an 8-bit register changes no other register, no flag and no byte of memory. -/
def Obligations.ByteMoveToRegisterFrame : Prop :=
  ∀ (s t : State) (d q : Reg8) (o : Rm8) (v : Byte),
    ∀ i ∈ [Instr.movRm8R8 (.reg d) q, .movR8Rm8 d o, .movR8Imm8 d v, .movRm8Imm8 (.reg d) v],
      exec i s = .next t →
        KeepsRegsBut8 d s t ∧ KeepsFlags s t ∧ KeepsMemory s t ∧ KeepsRest s t

/-- A Move into a 16-bit register changes no other register, no flag and no byte of memory. -/
def Obligations.WordMoveToRegisterFrame : Prop :=
  ∀ (s t : State) (d q : Reg16) (o : Rm16) (v : Word),
    ∀ i ∈ [Instr.movRm16R16 (.reg d) q, .movR16Rm16 d o, .movR16Imm16 d v, .movRm16Imm16 (.reg d) v],
      exec i s = .next t →
        KeepsRegsBut16 d s t ∧ KeepsFlags s t ∧ KeepsMemory s t ∧ KeepsRest s t

/-- A Move into memory changes no register, no flag, and no byte outside the one or two it stores at
the address of its destination, which the registers before the move give. -/
def Obligations.MoveToMemoryFrame : Prop :=
  ∀ (s t : State) (m : MemRef) (q : Reg8) (q' : Reg16) (v : Byte) (v' : Word) (a : Word),
    address s.regs m = a →
      (∀ i ∈ [Instr.movRm8R8 (.mem m) q, .movRm8Imm8 (.mem m) v], exec i s = .next t →
        KeepsRegs s t ∧ KeepsFlags s t ∧ KeepsRest s t ∧
          ∀ b, b ≠ a → t.mem.read8 b = s.mem.read8 b) ∧
      ∀ i ∈ [Instr.movRm16R16 (.mem m) q', .movRm16Imm16 (.mem m) v'], exec i s = .next t →
        KeepsRegs s t ∧ KeepsFlags s t ∧ KeepsRest s t ∧
          ∀ b, b ≠ a → b ≠ a + 1 → t.mem.read8 b = s.mem.read8 b

/-- An 8-bit Add or Subtract into a register changes no other register and no byte of memory. -/
def Obligations.ByteArithmeticFrame : Prop :=
  ∀ (s t : State) (d q : Reg8) (o : Rm8) (v : Byte),
    (∀ i ∈ [Instr.addRm8R8 (.reg d) q, .addR8Rm8 d o, .addRm8Imm8 (.reg d) v,
        .addRm8Imm8S (.reg d) v, .subRm8R8 (.reg d) q, .subR8Rm8 d o, .subRm8Imm8 (.reg d) v,
        .subRm8Imm8S (.reg d) v],
      exec i s = .next t → KeepsRegsBut8 d s t ∧ KeepsMemory s t ∧ KeepsRest s t) ∧
      ∀ i ∈ [Instr.addAlImm8 v, .subAlImm8 v],
        exec i s = .next t → KeepsRegsBut8 .al s t ∧ KeepsMemory s t ∧ KeepsRest s t

/-- A 16-bit Add or Subtract into a register changes no other register and no byte of memory. -/
def Obligations.WordArithmeticFrame : Prop :=
  ∀ (s t : State) (d q : Reg16) (o : Rm16) (v : Word) (b : Byte),
    (∀ i ∈ [Instr.addRm16R16 (.reg d) q, .addR16Rm16 d o, .addRm16Imm16 (.reg d) v,
        .addRm16Imm8 (.reg d) b, .subRm16R16 (.reg d) q, .subR16Rm16 d o, .subRm16Imm16 (.reg d) v,
        .subRm16Imm8 (.reg d) b],
      exec i s = .next t → KeepsRegsBut16 d s t ∧ KeepsMemory s t ∧ KeepsRest s t) ∧
      ∀ i ∈ [Instr.addAxImm16 v, .subAxImm16 v],
        exec i s = .next t → KeepsRegsBut16 .ax s t ∧ KeepsMemory s t ∧ KeepsRest s t

/-- A Compare changes no register and no byte of memory, in any of its forms. -/
def Obligations.CompareFrame : Prop :=
  ∀ (s t : State) (i : Instr) (v : ArithVariant), i.record.opcode = .arithmetic .cmp v →
    exec i s = .next t → KeepsRegs s t ∧ KeepsMemory s t ∧ KeepsRest s t

/-- A conditional jump changes no register, no flag and no byte of memory. -/
def Obligations.JumpFrame : Prop :=
  ∀ (s t : State) (i : Instr), IsJump i → exec i s = .next t →
    KeepsRegs s t ∧ KeepsFlags s t ∧ KeepsMemory s t ∧ KeepsRest s t

/-! ## Rules over all instructions -/

/-- Only Add, Subtract and Compare write the flags, and only JE, JNE, JS and JNS read them
(10_state.md section 4): run with any other flags, an instruction that is none of the four gives the
same registers, `ip`, memory and run state, and an arithmetic one that completes the same flags. -/
def Obligations.FlagWritersAndReaders : Prop :=
  (∀ (i : Instr) (s t : State), exec i s = .next t → ¬ IsArithmetic i → KeepsFlags s t) ∧
    ∀ (i : Instr) (s t : State) (z g : Bool),
      (∀ d, i ≠ .je d ∧ i ≠ .jne d ∧ i ≠ .js d ∧ i ≠ .jns d) → exec i s = .next t →
        ∃ t', exec i { s with zf := z, sf := g } = .next t' ∧ t'.regs = t.regs ∧ t'.ip = t.ip ∧
          t'.mem = t.mem ∧ t'.runState = t.runState ∧
          (IsArithmetic i → t = unsupported s ∨ (t'.zf = t.zf ∧ t'.sf = t.sf))

/-- There is no other control transfer (R159): an instruction that is not a conditional jump moves `ip`
past its own bytes or, halting, leaves it; no instruction writes a register its destination does not
name, SP included, or memory that is not its destination. -/
def Obligations.NoOtherControlTransfer : Prop :=
  ∀ (i : Instr) (s t : State), exec i s = .next t →
    (¬ IsJump i → t.ip = s.ip + BitVec.ofNat 16 i.len ∨ t = unsupported s) ∧
      (∀ q, ¬ Names i q → t.regs.get16 q = s.regs.get16 q) ∧
      (¬ MemoryOperand i.record.dst → t.mem = s.mem)

/-- No instruction reads or writes the instruction buffer as data, and no step changes it (R42); the
parameters are constant too. -/
def Obligations.InstructionBufferReadOnly : Prop :=
  (∀ (i : Instr) (s : State) (b : List Byte),
    ∃ t, exec i s = .next t ∧ exec i { s with buf := b } = .next { t with buf := b }) ∧
    ∀ s t : State, step s = .next t → t.buf = s.buf ∧ t.config = s.config

/-- The complete causes of Unsupported-Operation (60_exceptions.md section 2; its causes by parameter
are decisions D17 and D18, and that a Compare is none is D20). -/
def Obligations.UnsupportedOperationCauses : Prop :=
  ∀ (i : Instr) (s : State), Running s →
    ((∃ t, exec i s = .next t ∧ HaltedFor t .unsupportedOperation) ↔
      ((∃ f v, i.record.opcode = .arithmetic f v ∧ f ≠ .cmp) ∧ MemoryOperand i.record.dst) ∨
        (∃ c, i.record.opcode = .conditionalJump c ∧ c ∉ [Cond.e, .ne, .s, .ns]) ∨
        (IsArithmetic i ∧ i.record.width = some .w8 ∧ s.config.arith8 = .refuse) ∨
        (∃ m v, i = .movRm8Imm8 (.mem m) v ∧ s.config.movbMem = .refuse))

/-! ## The step -/

/-- When the bytes at `ip` decode to an instruction, a step of a running block is `exec` of it: a step
adds nothing around `exec` (70_reset_and_hazards.md section 2). -/
def Obligations.StepRunsDecodedInstruction : Prop :=
  ∀ (s : State) (i : Instr), Legal s → Running s →
    decode (s.buf.drop s.ip.toNat) = .ok (.known i) → step s = exec i s

/-- One step of the run loop, case by case (R195). -/
def Obligations.RunLoopStep : Prop :=
  ∀ s : State, Legal s →
    (∀ r, HaltedFor s r → step s = .next s) ∧
      (Running s →
        (decodeAt s.buf s.ip.toNat = .endOfBuffer →
          step s = .next { s with runState := .halted .endOfStream }) ∧
        (decodeAt s.buf s.ip.toNat = .truncated →
          step s = .next { s with runState := .halted .truncatedInstruction }) ∧
        (decodeAt s.buf s.ip.toNat = .ok .unrecognized →
          step s = .next { s with runState := .halted .unrecognizedOpcode }) ∧
        ∀ i, decodeAt s.buf s.ip.toNat = .ok (.known i) →
          ∃ t, exec i s = .next t ∧ step s = .next t ∧
            (Running t ∨ ∃ e, t = { s with runState := .halted e }))

/-- A step that halts the run changes the run state and nothing else (R182). -/
def Obligations.HaltChangesNothingElse : Prop :=
  ∀ (s t : State) (r : HaltReason), Running s → step s = .next t → HaltedFor t r →
    t = { s with runState := .halted r }

/-- The normal end (R181): a step of a running block halts with EndOfStream exactly when `ip >= L`,
so at once on an empty buffer, and changes nothing else. -/
def Obligations.EndOfStreamIffPastEnd : Prop :=
  ∀ s : State, Legal s → Running s →
    ((∃ t, step s = .next t ∧ HaltedFor t .endOfStream) ↔ s.buf.length ≤ s.ip.toNat) ∧
      (s.buf.length ≤ s.ip.toNat → step s = .next { s with runState := .halted .endOfStream })

/-- A halt is final: any number of steps of a halted block leaves it as it is (60_exceptions.md
section 3, decision D27). -/
def Obligations.HaltIsFinal : Prop :=
  ∀ (s : State) (r : HaltReason) (k : Nat), Legal s → HaltedFor s r →
    step s = .next s ∧ Sys2Proof.core.run k s = .next s

/-- Type-Mismatch cannot occur in a run, and the Move executor's check answers it exactly for two
registers of different widths (60_exceptions.md section 2). -/
def Obligations.TypeMismatchNeverOccurs : Prop :=
  (∀ s t : State, Running s → step s = .next t → ¬ HaltedFor t .typeMismatch) ∧
    ∀ d q : Operand, moveCheck d q = some .typeMismatch ↔
      (∃ r r', d = .reg (.r8 r) ∧ q = .reg (.r16 r')) ∨ ∃ r r', d = .reg (.r16 r) ∧ q = .reg (.r8 r')

/-- On legal launch inputs every run is safe: no number of steps is refused or faults. A launch that is
not legal is refused by name, which is the model's reading (log entry 5). -/
def Obligations.LegalRunsAreSafe : Prop :=
  (∀ (s : State) (k : Nat), Legal s → SafeRun k s) ∧
    ∀ s : State, ¬ Legal s → step s = .refused .illegalLaunch

/-- A JE, JNE, JS or JNS to itself (displacement 0xFE) whose condition holds runs forever and changes
nothing (the corner cases of 43_jump.md section 2; for JNE the source's scenario S4,
95_test_vectors.md section 1.1). -/
def Obligations.SelfJumpRunsForever : Prop :=
  ∀ (s : State) (k : Nat) (i : Instr), Legal s → Running s →
    (i = .je 0xFE ∧ s.zf = true) ∨ (i = .jne 0xFE ∧ s.zf = false) ∨
      (i = .js 0xFE ∧ s.sf = true) ∨ (i = .jns 0xFE ∧ s.sf = false) →
    decode (s.buf.drop s.ip.toNat) = .ok (.known i) → Sys2Proof.core.run k s = .next s

/-! ## Reset, the invariant, decode-only mode, observation -/

/-- The reset values, for any launch inputs (R39); `State.reset` is one such launch (its launch inputs
are the model's choice, log entries 3 and 4). -/
def Obligations.ResetValues : Prop :=
  (∀ (c : Config) (b : List Byte) (s : State), s = State.launch c b →
    (∀ r, s.regs.get16 r = 0) ∧ (∀ r, s.regs.get8 r = 0) ∧ s.zf = false ∧ s.sf = false ∧
      (∀ a, s.mem.read8 a = 0) ∧ s.ip = 0 ∧ Running s ∧ s.cursor = 0 ∧ s.buf = b ∧ s.config = c) ∧
    ∃ c b, State.reset = State.launch c b

/-- Every launch of a legal buffer meets the invariant, the reset state among them. -/
def Obligations.ResetMeetsInvariant : Prop :=
  (∀ (c : Config) (b : List Byte), b.length ≤ bufferLimit → (State.launch c b).Inv) ∧ State.reset.Inv

/-- Every step keeps the invariant: memory canonical, the buffer legal, the cursor within it. -/
def Obligations.StepKeepsInvariant : Prop :=
  ∀ s t : State, s.Inv → step s = .next t → t.Inv

/-- One call in decode-only mode gives `decode_at` of the cursor, advances the cursor by the length of
what it emits, changes nothing else, and keeps the invariant (40_decoder.md section 4). It is stated for
every state: what a call after the end of a sequence answers, and what a call on a buffer longer than
65,536 bytes answers, is the model's choice (log entry 8). -/
def Obligations.DecodeOnlyCall : Prop :=
  ∀ s : State, (decodeNext s).1 = decodeAt s.buf s.cursor ∧
    (∀ d, decodeAt s.buf s.cursor = .ok d →
      (decodeNext s).2 = { s with cursor := s.cursor + d.len }) ∧
    ((∀ d, decodeAt s.buf s.cursor ≠ .ok d) → (decodeNext s).2 = s) ∧
    (s.Inv → (decodeNext s).2.Inv)

/-- A decode-only sequence is finite: `L + 1` calls reach its end, the cursor has moved by the lengths
of the instructions emitted, and only the last one emitted can be the Unrecognized placeholder
(40_decoder.md section 4; where it ends is decision D32). On a buffer longer than 65,536 bytes, which
is no legal launch input, it is the model's choice (log entry 8). -/
def Obligations.DecodeOnlySequenceEnds : Prop :=
  ∀ s : State, s.cursor ≤ s.buf.length →
    (listing (s.buf.length + 1) s).2.1 ≠ .bound ∧
      (listing (s.buf.length + 1) s).2.2.cursor =
        s.cursor + ((listing (s.buf.length + 1) s).1.map Decoded.len).sum ∧
      (listing (s.buf.length + 1) s).2.2.cursor ≤ s.buf.length ∧
      ∀ d ∈ (listing (s.buf.length + 1) s).1.dropLast, d ≠ .unrecognized

/-- The observation shows the registers, flags, `ip` and run state, and as memory cells exactly the
non-zero bytes (10_state.md section 8); only a halted run has a numeric code (60_exceptions.md section 1,
decision D3). -/
def Obligations.ObservationIsFaithful : Prop :=
  (∀ s : State, Memory.wf s.mem →
    (observe s).regs = s.regs ∧ (observe s).zf = s.zf ∧ (observe s).sf = s.sf ∧
      (observe s).ip = s.ip ∧ (observe s).runState = s.runState ∧
      ∀ (a : Word) (v : Byte), (a.toNat, v) ∈ (observe s).cells ↔ v ≠ 0 ∧ s.mem.read8 a = v) ∧
    (∀ s : State, haltCode s = none ↔ Running s) ∧
    ∀ p ∈ [(HaltReason.endOfStream, 0), (.truncatedInstruction, 1), (.unrecognizedOpcode, 2),
        (.typeMismatch, 3), (.unsupportedOperation, 4)],
      ∀ s : State, haltCode s = some p.2 ↔ HaltedFor s p.1
end

