-- ==== Sys2Proof/Laws/Decode.lean ====
section
/-! SUPPORT. The byte helpers, the tables read back, lengths of what the encoder writes, and what the
resolver reads. -/

namespace Sys2Proof

@[simp] theorem lowByte_joinBytes (h l : Byte) : lowByte (joinBytes h l) = l := by
  simp only [lowByte, joinBytes]; exact BitVec.extractLsb'_append_eq_right

@[simp] theorem highByte_joinBytes (h l : Byte) : highByte (joinBytes h l) = h := by
  simp only [highByte, joinBytes]; exact BitVec.extractLsb'_append_eq_left

@[simp] theorem joinBytes_high_low (v : Word) : joinBytes (highByte v) (lowByte v) = v := by
  apply BitVec.eq_of_getLsbD_eq
  intro i hi
  simp only [joinBytes, highByte, lowByte, BitVec.getLsbD_append, BitVec.getLsbD_extractLsb']
  split
  · simp_all
  · have : i - 8 < 8 := by omega
    have : 8 + (i - 8) = i := by omega
    simp_all

@[simp] theorem rmBytes_length {ρ : Type} (num : ρ → BitVec 3) (reg : BitVec 3) (o : Rm ρ) :
    (rmBytes num reg o).length + 1 = o.count := by
  cases o with
  | reg r => rfl
  | mem m =>
    cases m with
    | direct a => rfl
    | ea e =>
      obtain ⟨b, x, d⟩ := e
      cases d <;> rfl

@[simp] theorem reg16Of_reg16Num (r : Reg16) : reg16Of (reg16Num r) = r := by cases r <;> rfl

@[simp] theorem reg8Of_reg8Num (r : Reg8) : reg8Of (reg8Num r) = r := by cases r <;> rfl

@[simp] theorem reg16Num_reg16Of (f : BitVec 3) : reg16Num (reg16Of f) = f := by
  revert f; decide

@[simp] theorem reg8Num_reg8Of (f : BitVec 3) : reg8Num (reg8Of f) = f := by
  revert f; decide

/-- A row of the effective-address table is read back from its number. -/
theorem eaNum_eaRow (f : BitVec 3) : eaNum (eaRow f).1 (eaRow f).2 = f := by
  revert f; decide

/-- The three fields of an addressing-mode byte. -/
@[simp] theorem modField_modRm (m : BitVec 2) (g r : BitVec 3) : modField (modRm m g r) = m := by
  revert m g r; decide

@[simp] theorem regField_modRm (m : BitVec 2) (g r : BitVec 3) : regField (modRm m g r) = g := by
  revert m g r; decide

@[simp] theorem rmField_modRm (m : BitVec 2) (g r : BitVec 3) : rmField (modRm m g r) = r := by
  revert m g r; decide

/-- An addressing-mode byte is rebuilt from its fields. -/
theorem modRm_fields (b : Byte) : modRm (modField b) (regField b) (rmField b) = b := by
  apply BitVec.eq_of_getLsbD_eq
  intro i hi
  simp only [modRm, modField, regField, rmField, field, BitVec.getLsbD_append,
    BitVec.getLsbD_extractLsb']
  interval_cases i <;> simp

/-- A pairing of the effective-address table is read back from its number. -/
theorem eaRow_eaNum (e : EffAddr) (h : e.pairOk = true) :
    eaRow (eaNum e.base e.index) = (e.base, e.index) := by
  obtain ⟨b, x, d⟩ := e
  cases b <;> rcases x with _ | _ | _ <;> first | rfl | (simp [EffAddr.pairOk] at h)

/-- Without a displacement a well-formed effective address is not the one of r/m = 110. -/
theorem eaNum_ne_six (e : EffAddr) (h : e.wf = true) (hd : e.disp = .none) :
    eaNum e.base e.index ≠ 6 := by
  obtain ⟨b, x, d⟩ := e
  subst hd
  cases b <;> rcases x with _ | _ | _ <;>
    first | decide | (simp [EffAddr.wf, EffAddr.dispOk, EffAddr.pairOk] at h)

/-- The row an r/m value selects is well formed, but for r/m = 110 without a displacement. -/
theorem eaRow_wf (f : BitVec 3) (d : Disp) (h : f ≠ 6 ∨ d ≠ .none) :
    EffAddr.wf ⟨(eaRow f).1, (eaRow f).2, d⟩ = true := by
  have hp : EffAddr.pairOk ⟨(eaRow f).1, (eaRow f).2, d⟩ = true := by
    clear h; simp only [EffAddr.pairOk]; revert f; decide
  simp only [EffAddr.wf, hp, Bool.true_and]
  cases d with
  | none =>
    have h6 : f ≠ 6 := by simpa using h
    clear h hp
    revert f; decide
  | d8 v => simp only [EffAddr.dispOk]; split <;> simp_all
  | d16 v => simp only [EffAddr.dispOk]; split <;> simp_all

/-- What the encoder writes for an operand is what the resolver reads, whatever follows. -/
theorem resolve_rmBytes {ρ : Type} (name : BitVec 3 → ρ) (num : ρ → BitVec 3)
    (hn : ∀ r, name (num r) = r) (g : BitVec 3) (o : Rm ρ) (ho : o.wf = true) (rest : List Byte) :
    ∃ b1 tail, rmBytes num g o = b1 :: tail ∧ regField b1 = g ∧
      resolve name (modField b1) (rmField b1) (tail ++ rest) = some (o, rest) := by
  cases o with
  | reg r => exact ⟨_, _, rfl, by simp, by simp [resolve, hn]⟩
  | mem m =>
    cases m with
    | direct a => exact ⟨_, _, rfl, by simp, by simp [resolve]⟩
    | ea e =>
      have hp : e.pairOk = true := by simp [Rm.wf, MemRef.wf, EffAddr.wf] at ho; exact ho.1
      have hr := eaRow_eaNum e hp
      have h6 := eaNum_ne_six e ho
      obtain ⟨b, x, d⟩ := e
      cases d with
      | none =>
        exact ⟨_, _, rfl, by simp, by simp [resolve, hr]; exact fun h => absurd h (h6 rfl)⟩
      | d8 v => exact ⟨_, _, rfl, by simp, by simp [resolve, hr]⟩
      | d16 v => exact ⟨_, _, rfl, by simp, by simp [resolve, hr]⟩

/-- What the resolver reads is well formed and is what the encoder writes for it. -/
theorem rmBytes_resolve {ρ : Type} (name : BitVec 3 → ρ) (num : ρ → BitVec 3)
    (hn : ∀ f, num (name f) = f) (b1 : Byte) (rest rest' : List Byte) (o : Rm ρ)
    (h : resolve name (modField b1) (rmField b1) rest = some (o, rest')) :
    o.wf = true ∧ b1 :: rest = rmBytes num (regField b1) o ++ rest' := by
  have hb := modRm_fields b1
  generalize modField b1 = m at *
  generalize regField b1 = g at *
  generalize rmField b1 = f at *
  subst hb
  have en := eaNum_eaRow f
  unfold resolve at h
  split at h
  · rename_i hm; cases h; subst hm; exact ⟨rfl, by simp [rmBytes, hn]⟩
  · split at h
    · rename_i hm; subst hm
      split at h
      · rename_i h6; subst h6
        split at h
        · cases h; exact ⟨rfl, by simp [rmBytes]⟩
        · cases h
      · rename_i h6; cases h; exact ⟨eaRow_wf f _ (.inl h6), by simp [rmBytes, en]⟩
    · split at h
      · rename_i hm; subst hm
        split at h
        · cases h; exact ⟨eaRow_wf f _ (.inr (by simp)), by simp [rmBytes, en]⟩
        · cases h
      · rename_i h3 h0 h1
        have h2 : m = 2 := by revert m; decide
        subst h2
        split at h
        · cases h; exact ⟨eaRow_wf f _ (.inr (by simp)), by simp [rmBytes, en]⟩
        · cases h

end Sys2Proof
end

