-- ==== Sys2Proof/Laws/Dispatch.lean ====
section
/-! SUPPORT. `exec` of each instruction as the execution its family shares. -/

namespace Sys2Proof.Machine

@[simp] theorem exec_movRm8R8 (dst : Rm8) (src : Reg8) (s : State) :
    exec (.movRm8R8 dst src) s =
      execMove8 dst (.rm (.reg src)) (Instr.len (.movRm8R8 dst src)) s := rfl

@[simp] theorem exec_movRm16R16 (dst : Rm16) (src : Reg16) (s : State) :
    exec (.movRm16R16 dst src) s =
      execMove16 dst (.rm (.reg src)) (Instr.len (.movRm16R16 dst src)) s := rfl

@[simp] theorem exec_movR8Rm8 (dst : Reg8) (src : Rm8) (s : State) :
    exec (.movR8Rm8 dst src) s =
      execMove8 (.reg dst) (.rm src) (Instr.len (.movR8Rm8 dst src)) s := rfl

@[simp] theorem exec_movR16Rm16 (dst : Reg16) (src : Rm16) (s : State) :
    exec (.movR16Rm16 dst src) s =
      execMove16 (.reg dst) (.rm src) (Instr.len (.movR16Rm16 dst src)) s := rfl

@[simp] theorem exec_movR8Imm8 (dst : Reg8) (imm : Byte) (s : State) :
    exec (.movR8Imm8 dst imm) s =
      execMove8 (.reg dst) (.imm imm) (Instr.len (.movR8Imm8 dst imm)) s := rfl

@[simp] theorem exec_movR16Imm16 (dst : Reg16) (imm : Word) (s : State) :
    exec (.movR16Imm16 dst imm) s =
      execMove16 (.reg dst) (.imm imm) (Instr.len (.movR16Imm16 dst imm)) s := rfl

@[simp] theorem exec_movRm8Imm8 (dst : Rm8) (imm : Byte) (s : State) :
    exec (.movRm8Imm8 dst imm) s =
      (if isMem dst && s.config.movbMem == .refuse then raise .unsupportedOperation s
      else execMove8 dst (.imm imm) (Instr.len (.movRm8Imm8 dst imm)) s) := rfl

@[simp] theorem exec_movRm16Imm16 (dst : Rm16) (imm : Word) (s : State) :
    exec (.movRm16Imm16 dst imm) s =
      execMove16 dst (.imm imm) (Instr.len (.movRm16Imm16 dst imm)) s := rfl

@[simp] theorem exec_addRm8R8 (dst : Rm8) (src : Reg8) (s : State) :
    exec (.addRm8R8 dst src) s =
      execArith8 .add dst (.rm (.reg src)) (Instr.len (.addRm8R8 dst src)) s := rfl

@[simp] theorem exec_addRm16R16 (dst : Rm16) (src : Reg16) (s : State) :
    exec (.addRm16R16 dst src) s =
      execArith16 .add dst (.rm (.reg src)) (Instr.len (.addRm16R16 dst src)) s := rfl

@[simp] theorem exec_addR8Rm8 (dst : Reg8) (src : Rm8) (s : State) :
    exec (.addR8Rm8 dst src) s =
      execArith8 .add (.reg dst) (.rm src) (Instr.len (.addR8Rm8 dst src)) s := rfl

@[simp] theorem exec_addR16Rm16 (dst : Reg16) (src : Rm16) (s : State) :
    exec (.addR16Rm16 dst src) s =
      execArith16 .add (.reg dst) (.rm src) (Instr.len (.addR16Rm16 dst src)) s := rfl

@[simp] theorem exec_addAlImm8 (imm : Byte) (s : State) :
    exec (.addAlImm8 imm) s =
      execArith8 .add (.reg .al) (.imm imm) (Instr.len (.addAlImm8 imm)) s := rfl

@[simp] theorem exec_addAxImm16 (imm : Word) (s : State) :
    exec (.addAxImm16 imm) s =
      execArith16 .add (.reg .ax) (.imm imm) (Instr.len (.addAxImm16 imm)) s := rfl

@[simp] theorem exec_addRm8Imm8 (dst : Rm8) (imm : Byte) (s : State) :
    exec (.addRm8Imm8 dst imm) s =
      execArith8 .add dst (.imm imm) (Instr.len (.addRm8Imm8 dst imm)) s := rfl

@[simp] theorem exec_addRm16Imm16 (dst : Rm16) (imm : Word) (s : State) :
    exec (.addRm16Imm16 dst imm) s =
      execArith16 .add dst (.imm imm) (Instr.len (.addRm16Imm16 dst imm)) s := rfl

@[simp] theorem exec_addRm8Imm8S (dst : Rm8) (imm : Byte) (s : State) :
    exec (.addRm8Imm8S dst imm) s =
      execArith8 .add dst (.imm imm) (Instr.len (.addRm8Imm8S dst imm)) s := rfl

@[simp] theorem exec_addRm16Imm8 (dst : Rm16) (imm : Byte) (s : State) :
    exec (.addRm16Imm8 dst imm) s =
      execArith16 .add dst (.immSext imm) (Instr.len (.addRm16Imm8 dst imm)) s := rfl

@[simp] theorem exec_subRm8R8 (dst : Rm8) (src : Reg8) (s : State) :
    exec (.subRm8R8 dst src) s =
      execArith8 .sub dst (.rm (.reg src)) (Instr.len (.subRm8R8 dst src)) s := rfl

@[simp] theorem exec_subRm16R16 (dst : Rm16) (src : Reg16) (s : State) :
    exec (.subRm16R16 dst src) s =
      execArith16 .sub dst (.rm (.reg src)) (Instr.len (.subRm16R16 dst src)) s := rfl

@[simp] theorem exec_subR8Rm8 (dst : Reg8) (src : Rm8) (s : State) :
    exec (.subR8Rm8 dst src) s =
      execArith8 .sub (.reg dst) (.rm src) (Instr.len (.subR8Rm8 dst src)) s := rfl

@[simp] theorem exec_subR16Rm16 (dst : Reg16) (src : Rm16) (s : State) :
    exec (.subR16Rm16 dst src) s =
      execArith16 .sub (.reg dst) (.rm src) (Instr.len (.subR16Rm16 dst src)) s := rfl

@[simp] theorem exec_subAlImm8 (imm : Byte) (s : State) :
    exec (.subAlImm8 imm) s =
      execArith8 .sub (.reg .al) (.imm imm) (Instr.len (.subAlImm8 imm)) s := rfl

@[simp] theorem exec_subAxImm16 (imm : Word) (s : State) :
    exec (.subAxImm16 imm) s =
      execArith16 .sub (.reg .ax) (.imm imm) (Instr.len (.subAxImm16 imm)) s := rfl

@[simp] theorem exec_subRm8Imm8 (dst : Rm8) (imm : Byte) (s : State) :
    exec (.subRm8Imm8 dst imm) s =
      execArith8 .sub dst (.imm imm) (Instr.len (.subRm8Imm8 dst imm)) s := rfl

@[simp] theorem exec_subRm16Imm16 (dst : Rm16) (imm : Word) (s : State) :
    exec (.subRm16Imm16 dst imm) s =
      execArith16 .sub dst (.imm imm) (Instr.len (.subRm16Imm16 dst imm)) s := rfl

@[simp] theorem exec_subRm8Imm8S (dst : Rm8) (imm : Byte) (s : State) :
    exec (.subRm8Imm8S dst imm) s =
      execArith8 .sub dst (.imm imm) (Instr.len (.subRm8Imm8S dst imm)) s := rfl

@[simp] theorem exec_subRm16Imm8 (dst : Rm16) (imm : Byte) (s : State) :
    exec (.subRm16Imm8 dst imm) s =
      execArith16 .sub dst (.immSext imm) (Instr.len (.subRm16Imm8 dst imm)) s := rfl

@[simp] theorem exec_cmpRm8R8 (dst : Rm8) (src : Reg8) (s : State) :
    exec (.cmpRm8R8 dst src) s =
      execArith8 .cmp dst (.rm (.reg src)) (Instr.len (.cmpRm8R8 dst src)) s := rfl

@[simp] theorem exec_cmpRm16R16 (dst : Rm16) (src : Reg16) (s : State) :
    exec (.cmpRm16R16 dst src) s =
      execArith16 .cmp dst (.rm (.reg src)) (Instr.len (.cmpRm16R16 dst src)) s := rfl

@[simp] theorem exec_cmpR8Rm8 (dst : Reg8) (src : Rm8) (s : State) :
    exec (.cmpR8Rm8 dst src) s =
      execArith8 .cmp (.reg dst) (.rm src) (Instr.len (.cmpR8Rm8 dst src)) s := rfl

@[simp] theorem exec_cmpR16Rm16 (dst : Reg16) (src : Rm16) (s : State) :
    exec (.cmpR16Rm16 dst src) s =
      execArith16 .cmp (.reg dst) (.rm src) (Instr.len (.cmpR16Rm16 dst src)) s := rfl

@[simp] theorem exec_cmpAlImm8 (imm : Byte) (s : State) :
    exec (.cmpAlImm8 imm) s =
      execArith8 .cmp (.reg .al) (.imm imm) (Instr.len (.cmpAlImm8 imm)) s := rfl

@[simp] theorem exec_cmpAxImm16 (imm : Word) (s : State) :
    exec (.cmpAxImm16 imm) s =
      execArith16 .cmp (.reg .ax) (.imm imm) (Instr.len (.cmpAxImm16 imm)) s := rfl

@[simp] theorem exec_cmpRm8Imm8 (dst : Rm8) (imm : Byte) (s : State) :
    exec (.cmpRm8Imm8 dst imm) s =
      execArith8 .cmp dst (.imm imm) (Instr.len (.cmpRm8Imm8 dst imm)) s := rfl

@[simp] theorem exec_cmpRm16Imm16 (dst : Rm16) (imm : Word) (s : State) :
    exec (.cmpRm16Imm16 dst imm) s =
      execArith16 .cmp dst (.imm imm) (Instr.len (.cmpRm16Imm16 dst imm)) s := rfl

@[simp] theorem exec_cmpRm8Imm8S (dst : Rm8) (imm : Byte) (s : State) :
    exec (.cmpRm8Imm8S dst imm) s =
      execArith8 .cmp dst (.imm imm) (Instr.len (.cmpRm8Imm8S dst imm)) s := rfl

@[simp] theorem exec_cmpRm16Imm8 (dst : Rm16) (imm : Byte) (s : State) :
    exec (.cmpRm16Imm8 dst imm) s =
      execArith16 .cmp dst (.immSext imm) (Instr.len (.cmpRm16Imm8 dst imm)) s := rfl

@[simp] theorem exec_jo (disp : Byte) (s : State) :
    exec (.jo disp) s =
      execJcc .o disp s := rfl

@[simp] theorem exec_jno (disp : Byte) (s : State) :
    exec (.jno disp) s =
      execJcc .no disp s := rfl

@[simp] theorem exec_jb (disp : Byte) (s : State) :
    exec (.jb disp) s =
      execJcc .b disp s := rfl

@[simp] theorem exec_jnb (disp : Byte) (s : State) :
    exec (.jnb disp) s =
      execJcc .nb disp s := rfl

@[simp] theorem exec_je (disp : Byte) (s : State) :
    exec (.je disp) s =
      execJcc .e disp s := rfl

@[simp] theorem exec_jne (disp : Byte) (s : State) :
    exec (.jne disp) s =
      execJcc .ne disp s := rfl

@[simp] theorem exec_js (disp : Byte) (s : State) :
    exec (.js disp) s =
      execJcc .s disp s := rfl

@[simp] theorem exec_jns (disp : Byte) (s : State) :
    exec (.jns disp) s =
      execJcc .ns disp s := rfl

@[simp] theorem exec_jp (disp : Byte) (s : State) :
    exec (.jp disp) s =
      execJcc .p disp s := rfl

@[simp] theorem exec_jnp (disp : Byte) (s : State) :
    exec (.jnp disp) s =
      execJcc .np disp s := rfl

@[simp] theorem exec_jl (disp : Byte) (s : State) :
    exec (.jl disp) s =
      execJcc .l disp s := rfl

@[simp] theorem exec_jnl (disp : Byte) (s : State) :
    exec (.jnl disp) s =
      execJcc .nl disp s := rfl

@[simp] theorem exec_loopnz (disp : Byte) (s : State) :
    exec (.loopnz disp) s =
      execJcc .loopnz disp s := rfl

@[simp] theorem exec_loopz (disp : Byte) (s : State) :
    exec (.loopz disp) s =
      execJcc .loopz disp s := rfl

@[simp] theorem exec_loop (disp : Byte) (s : State) :
    exec (.loop disp) s =
      execJcc .loop disp s := rfl

@[simp] theorem exec_jcxz (disp : Byte) (s : State) :
    exec (.jcxz disp) s =
      execJcc .cxz disp s := rfl

end Sys2Proof.Machine
end

