-- ==== Sys2Proof/Laws/Memory.lean ====
section
/-! SUPPORT. What the memory operations do: a read after a write, and the canonical form kept. -/

namespace Sys2Proof.Machine

@[simp] theorem Memory.readAt_nil (a : Nat) : Memory.readAt [] a = 0 := rfl

theorem Memory.readAt_cons (k : Nat) (v : Byte) (m : Memory) (a : Nat) :
    Memory.readAt ((k, v) :: m) a = if k = a then v else Memory.readAt m a := rfl

/-- Leaving an address out makes it read as 0x00 and no other address change. -/
theorem Memory.readAt_leftOut (m : Memory) (a b : Nat) :
    Memory.readAt (m.filter fun c => c.1 != a) b = if b = a then 0 else Memory.readAt m b := by
  induction m with
  | nil => simp
  | cons c m ih =>
    obtain ⟨k, v⟩ := c
    by_cases hk : k = a
    · subst hk
      rw [List.filter_cons_of_neg (by simp), ih, Memory.readAt_cons]
      split <;> simp_all
      intro h
      omega
    · rw [List.filter_cons_of_pos (by simpa using hk), Memory.readAt_cons, Memory.readAt_cons, ih]
      split <;> split <;> simp_all

/-- A cell put in where its address is not listed. -/
theorem Memory.readAt_insertCell (m : Memory) (a b : Nat) (v : Byte) (h : ∀ c ∈ m, c.1 ≠ a) :
    Memory.readAt (Memory.insertCell a v m) b = if b = a then v else Memory.readAt m b := by
  induction m with
  | nil => simp [Memory.insertCell, Memory.readAt_cons, eq_comm]
  | cons c m ih =>
    obtain ⟨k, w⟩ := c
    have hk : k ≠ a := h (k, w) (by simp)
    have ht : ∀ c ∈ m, c.1 ≠ a := fun c hc => h c (by simp [hc])
    unfold Memory.insertCell
    split
    · simp only [Memory.readAt_cons]
      by_cases hb : b = a
      · simp [hb]
      · simp [hb, Ne.symm hb, eq_comm]
    · simp only [Memory.readAt_cons, ih ht]
      by_cases hb : b = a
      · subst hb; simp [hk]
      · simp [hb]

/-- Read after write, at any address. -/
theorem Memory.readAt_writeAt (m : Memory) (a b : Nat) (v : Byte) :
    (Memory.writeAt m a v).readAt b = if b = a then v else m.readAt b := by
  unfold Memory.writeAt
  by_cases hv : v = 0
  · simp [hv, Memory.readAt_leftOut]
  · simp only [hv, if_false]
    rw [Memory.readAt_insertCell _ _ _ _ (by simp), Memory.readAt_leftOut]
    split <;> simp_all

theorem Memory.read8_write8 (m : Memory) (a b : Word) (v : Byte) :
    (m.write8 a v).read8 b = if b = a then v else m.read8 b := by
  unfold Memory.read8 Memory.write8
  rw [Memory.readAt_writeAt]
  simp [BitVec.toNat_inj]

@[simp] theorem Memory.read8_write8_same (m : Memory) (a : Word) (v : Byte) :
    (m.write8 a v).read8 a = v := by
  simp [Memory.read8_write8]

theorem Memory.read8_write8_other (m : Memory) (a b : Word) (v : Byte) (h : b ≠ a) :
    (m.write8 a v).read8 b = m.read8 b := by
  simp [Memory.read8_write8, h]

theorem Memory.read8_write16_other (m : Memory) (a b v : Word) (h0 : b ≠ a) (h1 : b ≠ a + 1) :
    (m.write16 a v).read8 b = m.read8 b := by
  rw [Memory.write16, Memory.read8_write8_other _ _ _ _ h1, Memory.read8_write8_other _ _ _ _ h0]

/-- The addresses of a memory with a cell put in. -/
theorem Memory.mem_insertCell (m : Memory) (a : Nat) (v : Byte) (c : Host.Cell) :
    c ∈ Memory.insertCell a v m ↔ c = (a, v) ∨ c ∈ m := by
  induction m with
  | nil => simp [Memory.insertCell]
  | cons d m ih =>
    obtain ⟨k, w⟩ := d
    unfold Memory.insertCell
    split
    · simp
    · simp only [List.mem_cons, ih]; tauto

theorem Memory.pairwise_insertCell (m : Memory) (a : Nat) (v : Byte)
    (hm : m.Pairwise fun c d => c.1 < d.1) (h : ∀ c ∈ m, c.1 ≠ a) :
    (Memory.insertCell a v m).Pairwise fun c d => c.1 < d.1 := by
  induction m with
  | nil => simp [Memory.insertCell]
  | cons c m ih =>
    obtain ⟨k, w⟩ := c
    have hk : k ≠ a := h (k, w) (by simp)
    obtain ⟨hlt, hm'⟩ := List.pairwise_cons.mp hm
    unfold Memory.insertCell
    split
    · rename_i hak
      refine List.pairwise_cons.mpr ⟨fun d hd => ?_, hm⟩
      rcases List.mem_cons.mp hd with rfl | hd
      · exact hak
      · exact Nat.lt_trans hak (hlt d hd)
    · rename_i hak
      refine List.pairwise_cons.mpr ⟨fun d hd => ?_, ih hm' fun d hd => h d (by simp [hd])⟩
      rcases (Memory.mem_insertCell m a v d).mp hd with rfl | hd
      · show k < a; omega
      · exact hlt d hd

/-- Writing a byte keeps the canonical form. -/
theorem Memory.writeAt_wf (m : Memory) (a : Nat) (v : Byte) (ha : a < 65536) (hm : Memory.wf m) :
    Memory.wf (Memory.writeAt m a v) := by
  have hf : Memory.wf (m.filter fun c => c.1 != a) :=
    ⟨hm.1.filter _, fun c hc => hm.2 c (List.mem_filter.mp hc).1⟩
  unfold Memory.writeAt
  by_cases hv : v = 0
  · simpa [hv] using hf
  · simp only [hv, if_false]
    refine ⟨Memory.pairwise_insertCell _ _ _ hf.1 (by simp), fun c hc => ?_⟩
    rcases (Memory.mem_insertCell _ _ _ _).mp hc with rfl | hc
    · exact ⟨ha, hv⟩
    · exact hf.2 c hc

theorem Memory.write8_wf (m : Memory) (a : Word) (v : Byte) (hm : Memory.wf m) :
    Memory.wf (m.write8 a v) :=
  Memory.writeAt_wf m a.toNat v a.isLt hm

theorem Memory.write16_wf (m : Memory) (a v : Word) (hm : Memory.wf m) :
    Memory.wf (m.write16 a v) :=
  Memory.write8_wf _ _ _ (Memory.write8_wf _ _ _ hm)

/-- In a canonical memory the listed cells are the non-zero bytes. -/
theorem Memory.mem_iff_readAt (m : Memory) (hm : Memory.wf m) (a : Nat) (v : Byte) :
    (a, v) ∈ m ↔ v ≠ 0 ∧ Memory.readAt m a = v := by
  induction m with
  | nil => simp; rintro h rfl; exact h rfl
  | cons c m ih =>
    obtain ⟨k, w⟩ := c
    obtain ⟨hlt, hp⟩ := List.pairwise_cons.mp hm.1
    have ih := ih ⟨hp, fun c hc => hm.2 c (by simp [hc])⟩
    have hw : w ≠ 0 := (hm.2 (k, w) (by simp)).2
    rw [Memory.readAt_cons]
    by_cases hk : k = a
    · subst hk
      have hnot : ∀ u, (k, u) ∉ m := fun u hu => absurd (hlt _ hu) (by simp)
      simp only [List.mem_cons, Prod.mk.injEq, true_and, hnot, or_false, if_true]
      exact ⟨fun h => ⟨h ▸ hw, h.symm⟩, fun h => h.2.symm⟩
    · have : a ≠ k := Ne.symm hk
      simp only [List.mem_cons, Prod.mk.injEq, this, false_and, false_or, hk, if_false]
      exact ih

end Sys2Proof.Machine
end

