-- ==== Sys2Proof/Laws/Registers.lean ====
section
/-! SUPPORT. Reads after writes of the register file. -/

namespace Sys2Proof

namespace Machine

theorem RegFile.get16_set16 (f : RegFile) (r q : Reg16) (v : Word) :
    (f.set16 r v).get16 q = if q = r then v else f.get16 q := by
  cases r <;> cases q <;> rfl

@[simp] theorem RegFile.get16_set16_same (f : RegFile) (r : Reg16) (v : Word) :
    (f.set16 r v).get16 r = v := by
  simp [RegFile.get16_set16]

@[simp] theorem Half.of_replace (h : Half) (v : Word) (b : Byte) : h.of (h.replace v b) = b := by
  cases h <;> simp [Half.of, Half.replace]

/-- The half not replaced is kept. -/
theorem Half.of_replace_other (h k : Half) (v : Word) (b : Byte) (hk : k ≠ h) :
    k.of (h.replace v b) = k.of v := by
  cases h <;> cases k <;> simp_all [Half.of, Half.replace]

theorem RegFile.get16_set8 (f : RegFile) (r : Reg8) (q : Reg16) (v : Byte) :
    (f.set8 r v).get16 q =
      if q = cellOf r then (halfOf r).replace (f.get16 (cellOf r)) v else f.get16 q := by
  simp [RegFile.set8, RegFile.get16_set16]

@[simp] theorem RegFile.get8_set8_same (f : RegFile) (r : Reg8) (v : Byte) :
    (f.set8 r v).get8 r = v := by
  simp [RegFile.get8, RegFile.get16_set8]

/-- Two names of one cell and one half are one name. -/
theorem view_injective (r q : Reg8) (hc : cellOf q = cellOf r) (hh : halfOf q = halfOf r) :
    q = r := by
  cases r <;> cases q <;> simp_all [cellOf, halfOf]

theorem RegFile.get8_set8_other (f : RegFile) (r q : Reg8) (v : Byte) (h : q ≠ r) :
    (f.set8 r v).get8 q = f.get8 q := by
  simp only [RegFile.get8, RegFile.get16_set8]
  split
  · rename_i hc
    rw [hc, Half.of_replace_other]
    exact fun hh => h (view_injective r q hc hh)
  · rfl

/-- The total 8-bit read is the half view of the register file's interface. -/
theorem RegFile.readHalf_view (f : RegFile) (r : Reg8) :
    f.readHalf (cellOf r) (halfOf r) = .ok (f.get8 r) := by
  cases r <;> rfl

/-- The total 8-bit write is the half view of the register file's interface. -/
theorem RegFile.writeHalf_view (f : RegFile) (r : Reg8) (v : Byte) :
    f.writeHalf (cellOf r) (halfOf r) v = .ok (f.set8 r v) := by
  cases r <;> rfl

end Machine

end Sys2Proof
end

