-- ==== Sys2Proof/Laws/State.lean ====
section
/-! SUPPORT. One lemma for each field of the state under each named update, so that no proof unfolds
a record update. -/

namespace Sys2Proof.Machine

@[simp] theorem State.setReg16_regs (s : State) (r : Reg16) (v : Word) : (s.setReg16 r v).regs = s.regs.set16 r v := rfl
@[simp] theorem State.setReg16_ip (s : State) (r : Reg16) (v : Word) : (s.setReg16 r v).ip = s.ip := rfl
@[simp] theorem State.setReg16_zf (s : State) (r : Reg16) (v : Word) : (s.setReg16 r v).zf = s.zf := rfl
@[simp] theorem State.setReg16_sf (s : State) (r : Reg16) (v : Word) : (s.setReg16 r v).sf = s.sf := rfl
@[simp] theorem State.setReg16_mem (s : State) (r : Reg16) (v : Word) : (s.setReg16 r v).mem = s.mem := rfl
@[simp] theorem State.setReg16_runState (s : State) (r : Reg16) (v : Word) : (s.setReg16 r v).runState = s.runState := rfl
@[simp] theorem State.setReg16_cursor (s : State) (r : Reg16) (v : Word) : (s.setReg16 r v).cursor = s.cursor := rfl
@[simp] theorem State.setReg16_buf (s : State) (r : Reg16) (v : Word) : (s.setReg16 r v).buf = s.buf := rfl
@[simp] theorem State.setReg16_config (s : State) (r : Reg16) (v : Word) : (s.setReg16 r v).config = s.config := rfl

@[simp] theorem State.setReg8_regs (s : State) (r : Reg8) (v : Byte) : (s.setReg8 r v).regs = s.regs.set8 r v := rfl
@[simp] theorem State.setReg8_ip (s : State) (r : Reg8) (v : Byte) : (s.setReg8 r v).ip = s.ip := rfl
@[simp] theorem State.setReg8_zf (s : State) (r : Reg8) (v : Byte) : (s.setReg8 r v).zf = s.zf := rfl
@[simp] theorem State.setReg8_sf (s : State) (r : Reg8) (v : Byte) : (s.setReg8 r v).sf = s.sf := rfl
@[simp] theorem State.setReg8_mem (s : State) (r : Reg8) (v : Byte) : (s.setReg8 r v).mem = s.mem := rfl
@[simp] theorem State.setReg8_runState (s : State) (r : Reg8) (v : Byte) : (s.setReg8 r v).runState = s.runState := rfl
@[simp] theorem State.setReg8_cursor (s : State) (r : Reg8) (v : Byte) : (s.setReg8 r v).cursor = s.cursor := rfl
@[simp] theorem State.setReg8_buf (s : State) (r : Reg8) (v : Byte) : (s.setReg8 r v).buf = s.buf := rfl
@[simp] theorem State.setReg8_config (s : State) (r : Reg8) (v : Byte) : (s.setReg8 r v).config = s.config := rfl

@[simp] theorem State.store8_regs (s : State) (a : Word) (v : Byte) : (s.store8 a v).regs = s.regs := rfl
@[simp] theorem State.store8_ip (s : State) (a : Word) (v : Byte) : (s.store8 a v).ip = s.ip := rfl
@[simp] theorem State.store8_zf (s : State) (a : Word) (v : Byte) : (s.store8 a v).zf = s.zf := rfl
@[simp] theorem State.store8_sf (s : State) (a : Word) (v : Byte) : (s.store8 a v).sf = s.sf := rfl
@[simp] theorem State.store8_mem (s : State) (a : Word) (v : Byte) : (s.store8 a v).mem = s.mem.write8 a v := rfl
@[simp] theorem State.store8_runState (s : State) (a : Word) (v : Byte) : (s.store8 a v).runState = s.runState := rfl
@[simp] theorem State.store8_cursor (s : State) (a : Word) (v : Byte) : (s.store8 a v).cursor = s.cursor := rfl
@[simp] theorem State.store8_buf (s : State) (a : Word) (v : Byte) : (s.store8 a v).buf = s.buf := rfl
@[simp] theorem State.store8_config (s : State) (a : Word) (v : Byte) : (s.store8 a v).config = s.config := rfl

@[simp] theorem State.store16_regs (s : State) (a : Word) (v : Word) : (s.store16 a v).regs = s.regs := rfl
@[simp] theorem State.store16_ip (s : State) (a : Word) (v : Word) : (s.store16 a v).ip = s.ip := rfl
@[simp] theorem State.store16_zf (s : State) (a : Word) (v : Word) : (s.store16 a v).zf = s.zf := rfl
@[simp] theorem State.store16_sf (s : State) (a : Word) (v : Word) : (s.store16 a v).sf = s.sf := rfl
@[simp] theorem State.store16_mem (s : State) (a : Word) (v : Word) : (s.store16 a v).mem = s.mem.write16 a v := rfl
@[simp] theorem State.store16_runState (s : State) (a : Word) (v : Word) : (s.store16 a v).runState = s.runState := rfl
@[simp] theorem State.store16_cursor (s : State) (a : Word) (v : Word) : (s.store16 a v).cursor = s.cursor := rfl
@[simp] theorem State.store16_buf (s : State) (a : Word) (v : Word) : (s.store16 a v).buf = s.buf := rfl
@[simp] theorem State.store16_config (s : State) (a : Word) (v : Word) : (s.store16 a v).config = s.config := rfl

@[simp] theorem State.setFlags_regs (s : State) (z f : Bool) : (s.setFlags z f).regs = s.regs := rfl
@[simp] theorem State.setFlags_ip (s : State) (z f : Bool) : (s.setFlags z f).ip = s.ip := rfl
@[simp] theorem State.setFlags_zf (s : State) (z f : Bool) : (s.setFlags z f).zf = z := rfl
@[simp] theorem State.setFlags_sf (s : State) (z f : Bool) : (s.setFlags z f).sf = f := rfl
@[simp] theorem State.setFlags_mem (s : State) (z f : Bool) : (s.setFlags z f).mem = s.mem := rfl
@[simp] theorem State.setFlags_runState (s : State) (z f : Bool) : (s.setFlags z f).runState = s.runState := rfl
@[simp] theorem State.setFlags_cursor (s : State) (z f : Bool) : (s.setFlags z f).cursor = s.cursor := rfl
@[simp] theorem State.setFlags_buf (s : State) (z f : Bool) : (s.setFlags z f).buf = s.buf := rfl
@[simp] theorem State.setFlags_config (s : State) (z f : Bool) : (s.setFlags z f).config = s.config := rfl

@[simp] theorem State.setIp_regs (s : State) (t : Word) : (s.setIp t).regs = s.regs := rfl
@[simp] theorem State.setIp_ip (s : State) (t : Word) : (s.setIp t).ip = t := rfl
@[simp] theorem State.setIp_zf (s : State) (t : Word) : (s.setIp t).zf = s.zf := rfl
@[simp] theorem State.setIp_sf (s : State) (t : Word) : (s.setIp t).sf = s.sf := rfl
@[simp] theorem State.setIp_mem (s : State) (t : Word) : (s.setIp t).mem = s.mem := rfl
@[simp] theorem State.setIp_runState (s : State) (t : Word) : (s.setIp t).runState = s.runState := rfl
@[simp] theorem State.setIp_cursor (s : State) (t : Word) : (s.setIp t).cursor = s.cursor := rfl
@[simp] theorem State.setIp_buf (s : State) (t : Word) : (s.setIp t).buf = s.buf := rfl
@[simp] theorem State.setIp_config (s : State) (t : Word) : (s.setIp t).config = s.config := rfl

@[simp] theorem State.advance_regs (s : State) (n : Nat) : (s.advance n).regs = s.regs := rfl
@[simp] theorem State.advance_ip (s : State) (n : Nat) : (s.advance n).ip = s.ipNext n := rfl
@[simp] theorem State.advance_zf (s : State) (n : Nat) : (s.advance n).zf = s.zf := rfl
@[simp] theorem State.advance_sf (s : State) (n : Nat) : (s.advance n).sf = s.sf := rfl
@[simp] theorem State.advance_mem (s : State) (n : Nat) : (s.advance n).mem = s.mem := rfl
@[simp] theorem State.advance_runState (s : State) (n : Nat) : (s.advance n).runState = s.runState := rfl
@[simp] theorem State.advance_cursor (s : State) (n : Nat) : (s.advance n).cursor = s.cursor := rfl
@[simp] theorem State.advance_buf (s : State) (n : Nat) : (s.advance n).buf = s.buf := rfl
@[simp] theorem State.advance_config (s : State) (n : Nat) : (s.advance n).config = s.config := rfl

@[simp] theorem State.halt_regs (s : State) (r : HaltReason) : (s.halt r).regs = s.regs := rfl
@[simp] theorem State.halt_ip (s : State) (r : HaltReason) : (s.halt r).ip = s.ip := rfl
@[simp] theorem State.halt_zf (s : State) (r : HaltReason) : (s.halt r).zf = s.zf := rfl
@[simp] theorem State.halt_sf (s : State) (r : HaltReason) : (s.halt r).sf = s.sf := rfl
@[simp] theorem State.halt_mem (s : State) (r : HaltReason) : (s.halt r).mem = s.mem := rfl
@[simp] theorem State.halt_runState (s : State) (r : HaltReason) : (s.halt r).runState = .halted r := rfl
@[simp] theorem State.halt_cursor (s : State) (r : HaltReason) : (s.halt r).cursor = s.cursor := rfl
@[simp] theorem State.halt_buf (s : State) (r : HaltReason) : (s.halt r).buf = s.buf := rfl
@[simp] theorem State.halt_config (s : State) (r : HaltReason) : (s.halt r).config = s.config := rfl

@[simp] theorem State.setReg16_ipNext (s : State) (r : Reg16) (v : Word) (n : Nat) :
    (s.setReg16 r v).ipNext n = s.ipNext n := rfl
@[simp] theorem State.setReg8_ipNext (s : State) (r : Reg8) (v : Byte) (n : Nat) :
    (s.setReg8 r v).ipNext n = s.ipNext n := rfl
@[simp] theorem State.store8_ipNext (s : State) (a : Word) (v : Byte) (n : Nat) :
    (s.store8 a v).ipNext n = s.ipNext n := rfl
@[simp] theorem State.store16_ipNext (s : State) (a v : Word) (n : Nat) :
    (s.store16 a v).ipNext n = s.ipNext n := rfl
@[simp] theorem State.setFlags_ipNext (s : State) (z f : Bool) (n : Nat) :
    (s.setFlags z f).ipNext n = s.ipNext n := rfl

@[simp] theorem State.launch_regs (c : Config) (b : List Byte) : (State.launch c b).regs = RegFile.zero := rfl
@[simp] theorem State.launch_ip (c : Config) (b : List Byte) : (State.launch c b).ip = 0 := rfl
@[simp] theorem State.launch_zf (c : Config) (b : List Byte) : (State.launch c b).zf = false := rfl
@[simp] theorem State.launch_sf (c : Config) (b : List Byte) : (State.launch c b).sf = false := rfl
@[simp] theorem State.launch_mem (c : Config) (b : List Byte) : (State.launch c b).mem = [] := rfl
@[simp] theorem State.launch_runState (c : Config) (b : List Byte) : (State.launch c b).runState = .running := rfl
@[simp] theorem State.launch_cursor (c : Config) (b : List Byte) : (State.launch c b).cursor = 0 := rfl
@[simp] theorem State.launch_buf (c : Config) (b : List Byte) : (State.launch c b).buf = b := rfl
@[simp] theorem State.launch_config (c : Config) (b : List Byte) : (State.launch c b).config = c := rfl

end Sys2Proof.Machine
end

