-- ==== Sys2Proof/Laws/Execute.lean ====
section
/-! SUPPORT. What each shared execution can do, said once, and the six shapes an execution has. -/

namespace Sys2Proof.Machine

/-! ## Stores -/

@[simp] theorem writeRm8_reg (s : State) (r : Reg8) (v : Byte) :
    writeRm8 s (.reg r) v = s.setReg8 r v := rfl
@[simp] theorem writeRm8_mem (s : State) (m : MemRef) (v : Byte) :
    writeRm8 s (.mem m) v = s.store8 (address s.regs m) v := rfl
@[simp] theorem writeRm16_reg (s : State) (r : Reg16) (v : Word) :
    writeRm16 s (.reg r) v = s.setReg16 r v := rfl
@[simp] theorem writeRm16_mem (s : State) (m : MemRef) (v : Word) :
    writeRm16 s (.mem m) v = s.store16 (address s.regs m) v := rfl

/-- Everything a store at width 8 leaves alone. -/
theorem writeRm8_keeps (s : State) (o : Rm8) (v : Byte) :
    (writeRm8 s o v).ip = s.ip ∧ (writeRm8 s o v).zf = s.zf ∧ (writeRm8 s o v).sf = s.sf ∧
      (writeRm8 s o v).runState = s.runState ∧ (writeRm8 s o v).cursor = s.cursor ∧
      (writeRm8 s o v).buf = s.buf ∧ (writeRm8 s o v).config = s.config ∧
      (Memory.wf s.mem → Memory.wf (writeRm8 s o v).mem) := by
  cases o with
  | reg r => exact ⟨rfl, rfl, rfl, rfl, rfl, rfl, rfl, id⟩
  | mem m => exact ⟨rfl, rfl, rfl, rfl, rfl, rfl, rfl, Memory.write8_wf _ _ _⟩

/-- Everything a store at width 16 leaves alone. -/
theorem writeRm16_keeps (s : State) (o : Rm16) (v : Word) :
    (writeRm16 s o v).ip = s.ip ∧ (writeRm16 s o v).zf = s.zf ∧ (writeRm16 s o v).sf = s.sf ∧
      (writeRm16 s o v).runState = s.runState ∧ (writeRm16 s o v).cursor = s.cursor ∧
      (writeRm16 s o v).buf = s.buf ∧ (writeRm16 s o v).config = s.config ∧
      (Memory.wf s.mem → Memory.wf (writeRm16 s o v).mem) := by
  cases o with
  | reg r => exact ⟨rfl, rfl, rfl, rfl, rfl, rfl, rfl, id⟩
  | mem m => exact ⟨rfl, rfl, rfl, rfl, rfl, rfl, rfl, Memory.write16_wf _ _ _⟩

/-! ## Moves -/

/-- Operands of one width pass the Move executor's check. -/
@[simp] theorem moveCheck_rm8 (dst : Rm8) (src : Src8) :
    moveCheck (Rm8.operand dst) src.operand = none := by
  cases dst with
  | mem m => cases m <;> rfl
  | reg r =>
    cases src with
    | imm v => rfl
    | rm o => cases o with
      | reg q => rfl
      | mem m => cases m <;> rfl

/-- Operands of one width pass the Move executor's check. -/
@[simp] theorem moveCheck_rm16 (dst : Rm16) (src : Src16) :
    moveCheck (Rm16.operand dst) src.operand = none := by
  cases dst with
  | mem m => cases m <;> rfl
  | reg r =>
    cases src with
    | imm v => rfl
    | immSext v => rfl
    | rm o => cases o with
      | reg q => rfl
      | mem m => cases m <;> rfl

theorem execMove8_eq (dst : Rm8) (src : Src8) (n : Nat) (s : State) :
    execMove8 dst src n s = .next ((writeRm8 s dst (value8 s src)).advance n) := by
  simp [execMove8]

theorem execMove16_eq (dst : Rm16) (src : Src16) (n : Nat) (s : State) :
    execMove16 dst src n s = .next ((writeRm16 s dst (value16 s src)).advance n) := by
  simp [execMove16]

/-! ## Arithmetic -/

theorem writesBack_of_ne (f : Family) (h : f ≠ .cmp) : writesBack f = true := by
  cases f <;> first | rfl | exact absurd rfl h

theorem execArith8_refused (f : Family) (dst : Rm8) (src : Src8) (n : Nat) (s : State)
    (h : s.config.arith8 = .refuse) :
    execArith8 f dst src n s = raise .unsupportedOperation s := by
  simp [execArith8, h]

theorem execArith8_mem (f : Family) (m : MemRef) (src : Src8) (n : Nat) (s : State)
    (h : f ≠ .cmp) :
    execArith8 f (.mem m) src n s = raise .unsupportedOperation s := by
  simp [execArith8, writesBack_of_ne f h, isMem]

theorem execArith8_reg (f : Family) (r : Reg8) (src : Src8) (n : Nat) (s : State)
    (hc : s.config.arith8 = .native8) (h : f ≠ .cmp) :
    execArith8 f (.reg r) src n s =
      .next (((s.setReg8 r (aluResult f (s.regs.get8 r) (value8 s src))).setFlags
        (zeroFlag (aluResult f (s.regs.get8 r) (value8 s src)))
        (signFlag (aluResult f (s.regs.get8 r) (value8 s src)))).advance n) := by
  simp [execArith8, hc, isMem, alu, writesBack_of_ne f h, readRm8]

theorem execArith8_cmp (dst : Rm8) (src : Src8) (n : Nat) (s : State)
    (hc : s.config.arith8 = .native8) :
    execArith8 .cmp dst src n s =
      .next ((s.setFlags (zeroFlag (readRm8 s dst - value8 s src))
        (signFlag (readRm8 s dst - value8 s src))).advance n) := by
  simp [execArith8, hc, alu, writesBack, aluResult]

theorem execArith16_mem (f : Family) (m : MemRef) (src : Src16) (n : Nat) (s : State)
    (h : f ≠ .cmp) :
    execArith16 f (.mem m) src n s = raise .unsupportedOperation s := by
  simp [execArith16, writesBack_of_ne f h, isMem]

theorem execArith16_reg (f : Family) (r : Reg16) (src : Src16) (n : Nat) (s : State)
    (h : f ≠ .cmp) :
    execArith16 f (.reg r) src n s =
      .next (((s.setReg16 r (aluResult f (s.regs.get16 r) (value16 s src))).setFlags
        (zeroFlag (aluResult f (s.regs.get16 r) (value16 s src)))
        (signFlag (aluResult f (s.regs.get16 r) (value16 s src)))).advance n) := by
  simp [execArith16, isMem, alu, writesBack_of_ne f h, readRm16]

theorem execArith16_cmp (dst : Rm16) (src : Src16) (n : Nat) (s : State) :
    execArith16 .cmp dst src n s =
      .next ((s.setFlags (zeroFlag (readRm16 s dst - value16 s src))
        (signFlag (readRm16 s dst - value16 s src))).advance n) := by
  simp [execArith16, alu, writesBack, aluResult]

/-- An arithmetic execution at width 8 is refused, or writes the flags and, unless it compares, its
register. -/
theorem execArith8_cases (f : Family) (dst : Rm8) (src : Src8) (n : Nat) (s : State) :
    execArith8 f dst src n s = raise .unsupportedOperation s ∨
      ∃ z g, (f = .cmp ∧ execArith8 f dst src n s = .next ((s.setFlags z g).advance n)) ∨
        ∃ r v, dst = .reg r ∧
          execArith8 f dst src n s = .next (((s.setReg8 r v).setFlags z g).advance n) := by
  cases hc : s.config.arith8 with
  | refuse => exact .inl (execArith8_refused f dst src n s hc)
  | native8 =>
    cases f with
    | cmp => exact .inr ⟨_, _, .inl ⟨rfl, execArith8_cmp dst src n s hc⟩⟩
    | add =>
      cases dst with
      | mem m => exact .inl (execArith8_mem _ m src n s (by decide))
      | reg r => exact .inr ⟨_, _, .inr ⟨r, _, rfl, execArith8_reg _ r src n s hc (by decide)⟩⟩
    | sub =>
      cases dst with
      | mem m => exact .inl (execArith8_mem _ m src n s (by decide))
      | reg r => exact .inr ⟨_, _, .inr ⟨r, _, rfl, execArith8_reg _ r src n s hc (by decide)⟩⟩

/-- An arithmetic execution at width 16 is refused, or writes the flags and, unless it compares, its
register. -/
theorem execArith16_cases (f : Family) (dst : Rm16) (src : Src16) (n : Nat) (s : State) :
    execArith16 f dst src n s = raise .unsupportedOperation s ∨
      ∃ z g, (f = .cmp ∧ execArith16 f dst src n s = .next ((s.setFlags z g).advance n)) ∨
        ∃ r v, dst = .reg r ∧
          execArith16 f dst src n s = .next (((s.setReg16 r v).setFlags z g).advance n) := by
  cases f with
  | cmp => exact .inr ⟨_, _, .inl ⟨rfl, execArith16_cmp dst src n s⟩⟩
  | add =>
    cases dst with
    | mem m => exact .inl (execArith16_mem _ m src n s (by decide))
    | reg r => exact .inr ⟨_, _, .inr ⟨r, _, rfl, execArith16_reg _ r src n s (by decide)⟩⟩
  | sub =>
    cases dst with
    | mem m => exact .inl (execArith16_mem _ m src n s (by decide))
    | reg r => exact .inr ⟨_, _, .inr ⟨r, _, rfl, execArith16_reg _ r src n s (by decide)⟩⟩

/-! ## Jumps -/

/-- A jump halts with Unsupported-Operation or only moves `ip`. -/
theorem execJcc_cases (c : Cond) (d : Byte) (s : State) :
    (condition c s.zf s.sf = none ∧ execJcc c d s = raise .unsupportedOperation s) ∨
      (condition c s.zf s.sf = some true ∧ execJcc c d s = .next (s.setIp (jumpTarget s d))) ∨
      (condition c s.zf s.sf = some false ∧ execJcc c d s = .next (s.advance 2)) := by
  unfold execJcc
  cases condition c s.zf s.sf with
  | none => exact .inl ⟨rfl, rfl⟩
  | some b => cases b <;> simp

/-! ## Every instruction -/

/-- Every execution has one of six shapes, which the decoded record tells apart. -/
theorem exec_shape (i : Instr) (s : State) :
    (∃ v dst src, i.record = record8 (.move v) dst src i.len ∧
        exec i s = execMove8 dst src i.len s) ∨
      (∃ v dst src, i.record = record16 (.move v) dst src i.len ∧
        exec i s = execMove16 dst src i.len s) ∨
      (∃ f v dst src, i.record = record8 (.arithmetic f v) dst src i.len ∧
        exec i s = execArith8 f dst src i.len s) ∨
      (∃ f v dst src, i.record = record16 (.arithmetic f v) dst src i.len ∧
        exec i s = execArith16 f dst src i.len s) ∨
      (∃ c d, i.record = recordJcc c d ∧ exec i s = execJcc c d s) ∨
      (∃ m v, i = .movRm8Imm8 (.mem m) v ∧ s.config.movbMem = .refuse ∧
        exec i s = raise .unsupportedOperation s) := by
  cases i
  case movRm8Imm8 dst imm =>
    cases dst with
    | reg r => exact .inl ⟨_, _, _, rfl, rfl⟩
    | mem m =>
      cases h : s.config.movbMem with
      | refuse => exact .inr (.inr (.inr (.inr (.inr ⟨m, imm, rfl, rfl, by
          simp [exec, execMovRm8Imm8, isMem, h]⟩))))
      | store8 => exact .inl ⟨_, _, _, rfl, by simp only [exec, execMovRm8Imm8, h]; rfl⟩
  all_goals first
    | exact .inl ⟨_, _, _, rfl, rfl⟩
    | exact .inr (.inl ⟨_, _, _, rfl, rfl⟩)
    | exact .inr (.inr (.inl ⟨_, _, _, _, rfl, rfl⟩))
    | exact .inr (.inr (.inr (.inl ⟨_, _, _, _, rfl, rfl⟩)))
    | exact .inr (.inr (.inr (.inr (.inl ⟨_, _, rfl, rfl⟩))))

/-- Operands of one width are told apart by their names. -/
theorem Rm8.operand_injective {o p : Rm8} (h : Rm8.operand o = Rm8.operand p) : o = p := by
  rcases o with r | _ | _ <;> rcases p with q | _ | _ <;> cases h <;> rfl

theorem Rm16.operand_injective {o p : Rm16} (h : Rm16.operand o = Rm16.operand p) : o = p := by
  rcases o with r | _ | _ <;> rcases p with q | _ | _ <;> cases h <;> rfl

theorem Src8.operand_injective {a b : Src8} (h : a.operand = b.operand) : a = b := by
  rcases a with (_ | _ | _) | _ <;> rcases b with (_ | _ | _) | _ <;> cases h <;> rfl

theorem Src16.operand_injective {a b : Src16} (h : a.operand = b.operand) : a = b := by
  rcases a with (_ | _ | _) | _ | _ <;> rcases b with (_ | _ | _) | _ | _ <;> cases h <;> rfl

/-- An arithmetic record of width 8 says which execution the instruction has. -/
theorem exec_of_arith8 {i : Instr} {f : Family} {v : ArithVariant} {dst : Rm8} {src : Src8}
    (h : i.record = record8 (.arithmetic f v) dst src i.len) (s : State) :
    exec i s = execArith8 f dst src i.len s := by
  rcases exec_shape i s with ⟨_, _, _, hr, _⟩ | ⟨_, _, _, hr, _⟩ | ⟨g, w, d, q, hr, e⟩ |
    ⟨_, _, _, _, hr, _⟩ | ⟨_, _, hr, _⟩ | ⟨_, _, rfl, _, _⟩
  case inr.inr.inl =>
    rw [h] at hr
    simp only [record8, Record.mk.injEq, Opcode.arithmetic.injEq, Option.some.injEq, true_and,
      and_true] at hr
    obtain ⟨⟨rfl, rfl⟩, hd, hs⟩ := hr
    rw [e, Rm8.operand_injective hd, Src8.operand_injective hs]
  case inr.inr.inr.inr.inr => cases h
  all_goals (rw [h] at hr; cases hr)

/-- An arithmetic record of width 16 says which execution the instruction has. -/
theorem exec_of_arith16 {i : Instr} {f : Family} {v : ArithVariant} {dst : Rm16} {src : Src16}
    (h : i.record = record16 (.arithmetic f v) dst src i.len) (s : State) :
    exec i s = execArith16 f dst src i.len s := by
  rcases exec_shape i s with ⟨_, _, _, hr, _⟩ | ⟨_, _, _, hr, _⟩ | ⟨_, _, _, _, hr, _⟩ |
    ⟨g, w, d, q, hr, e⟩ | ⟨_, _, hr, _⟩ | ⟨_, _, rfl, _, _⟩
  case inr.inr.inr.inl =>
    rw [h] at hr
    simp only [record16, Record.mk.injEq, Opcode.arithmetic.injEq, Option.some.injEq, true_and,
      and_true] at hr
    obtain ⟨⟨rfl, rfl⟩, hd, hs⟩ := hr
    rw [e, Rm16.operand_injective hd, Src16.operand_injective hs]
  case inr.inr.inr.inr.inr => cases h
  all_goals (rw [h] at hr; cases hr)

/-- Every execution answers a next state: the halt with Unsupported-Operation, or a state with the
same run state, cursor, buffer and parameters and, from canonical memory, canonical memory. -/
theorem exec_cases (i : Instr) (s : State) :
    exec i s = raise .unsupportedOperation s ∨
      ∃ t, exec i s = .next t ∧ t.runState = s.runState ∧ t.cursor = s.cursor ∧ t.buf = s.buf ∧
        t.config = s.config ∧ (Memory.wf s.mem → Memory.wf t.mem) := by
  rcases exec_shape i s with ⟨_, d, q, -, h⟩ | ⟨_, d, q, -, h⟩ | ⟨f, _, d, q, -, h⟩ | ⟨f, _, d, q, -, h⟩ |
    ⟨c, d, -, h⟩ | ⟨_, _, -, -, h⟩
  · obtain ⟨-, -, -, h4, h5, h6, h7, h8⟩ := writeRm8_keeps s d (value8 s q)
    exact .inr ⟨_, h.trans (execMove8_eq d q _ s), h4, h5, h6, h7, h8⟩
  · obtain ⟨-, -, -, h4, h5, h6, h7, h8⟩ := writeRm16_keeps s d (value16 s q)
    exact .inr ⟨_, h.trans (execMove16_eq d q _ s), h4, h5, h6, h7, h8⟩
  · rcases execArith8_cases f d q i.len s with e | ⟨z, g, ⟨-, e⟩ | ⟨r, v, -, e⟩⟩
    · exact .inl (h.trans e)
    · exact .inr ⟨_, h.trans e, rfl, rfl, rfl, rfl, id⟩
    · exact .inr ⟨_, h.trans e, rfl, rfl, rfl, rfl, id⟩
  · rcases execArith16_cases f d q i.len s with e | ⟨z, g, ⟨-, e⟩ | ⟨r, v, -, e⟩⟩
    · exact .inl (h.trans e)
    · exact .inr ⟨_, h.trans e, rfl, rfl, rfl, rfl, id⟩
    · exact .inr ⟨_, h.trans e, rfl, rfl, rfl, rfl, id⟩
  · rcases execJcc_cases c d s with ⟨-, e⟩ | ⟨-, e⟩ | ⟨-, e⟩
    · exact .inl (h.trans e)
    · exact .inr ⟨_, h.trans e, rfl, rfl, rfl, rfl, id⟩
    · exact .inr ⟨_, h.trans e, rfl, rfl, rfl, rfl, id⟩
  · exact .inl h

end Sys2Proof.Machine
end

