-- ==== Sys2Proof/Laws/PerInstr.lean ====
section
/-! SUPPORT. Statements made per instruction. Family `EncodeLength`: the encoder writes as many
bytes as the instruction is long (40_decoder.md R103). -/

namespace Sys2Proof.Laws.EncodeLength

def Statement (i : Instr) : Prop := (encode i).length = i.len

theorem movRm8R8 o r : Statement (.movRm8R8 o r) := by simp [Statement, encode, encRm8, Instr.len]
theorem movRm16R16 o r : Statement (.movRm16R16 o r) := by simp [Statement, encode, encRm16, Instr.len]
theorem movR8Rm8 r o : Statement (.movR8Rm8 r o) := by simp [Statement, encode, encRm8, Instr.len]
theorem movR16Rm16 r o : Statement (.movR16Rm16 r o) := by simp [Statement, encode, encRm16, Instr.len]
theorem movR8Imm8 r v : Statement (.movR8Imm8 r v) := rfl
theorem movR16Imm16 r v : Statement (.movR16Imm16 r v) := rfl
theorem movRm8Imm8 o v : Statement (.movRm8Imm8 o v) := by
  simp [Statement, encode, encImm8, Instr.len]
theorem movRm16Imm16 o v : Statement (.movRm16Imm16 o v) := by
  simp [Statement, encode, encImm16, Instr.len, imm16Bytes]
theorem addRm8R8 o r : Statement (.addRm8R8 o r) := by simp [Statement, encode, encRm8, Instr.len]
theorem addRm16R16 o r : Statement (.addRm16R16 o r) := by simp [Statement, encode, encRm16, Instr.len]
theorem addR8Rm8 r o : Statement (.addR8Rm8 r o) := by simp [Statement, encode, encRm8, Instr.len]
theorem addR16Rm16 r o : Statement (.addR16Rm16 r o) := by simp [Statement, encode, encRm16, Instr.len]
theorem addAlImm8 v : Statement (.addAlImm8 v) := rfl
theorem addAxImm16 v : Statement (.addAxImm16 v) := rfl
theorem addRm8Imm8 o v : Statement (.addRm8Imm8 o v) := by
  simp [Statement, encode, encImm8, Instr.len]
theorem addRm16Imm16 o v : Statement (.addRm16Imm16 o v) := by
  simp [Statement, encode, encImm16, Instr.len, imm16Bytes]
theorem addRm8Imm8S o v : Statement (.addRm8Imm8S o v) := by
  simp [Statement, encode, encImm8, Instr.len]
theorem addRm16Imm8 o v : Statement (.addRm16Imm8 o v) := by
  simp [Statement, encode, encImmSext, Instr.len]
theorem subRm8R8 o r : Statement (.subRm8R8 o r) := by simp [Statement, encode, encRm8, Instr.len]
theorem subRm16R16 o r : Statement (.subRm16R16 o r) := by simp [Statement, encode, encRm16, Instr.len]
theorem subR8Rm8 r o : Statement (.subR8Rm8 r o) := by simp [Statement, encode, encRm8, Instr.len]
theorem subR16Rm16 r o : Statement (.subR16Rm16 r o) := by simp [Statement, encode, encRm16, Instr.len]
theorem subAlImm8 v : Statement (.subAlImm8 v) := rfl
theorem subAxImm16 v : Statement (.subAxImm16 v) := rfl
theorem subRm8Imm8 o v : Statement (.subRm8Imm8 o v) := by
  simp [Statement, encode, encImm8, Instr.len]
theorem subRm16Imm16 o v : Statement (.subRm16Imm16 o v) := by
  simp [Statement, encode, encImm16, Instr.len, imm16Bytes]
theorem subRm8Imm8S o v : Statement (.subRm8Imm8S o v) := by
  simp [Statement, encode, encImm8, Instr.len]
theorem subRm16Imm8 o v : Statement (.subRm16Imm8 o v) := by
  simp [Statement, encode, encImmSext, Instr.len]
theorem cmpRm8R8 o r : Statement (.cmpRm8R8 o r) := by simp [Statement, encode, encRm8, Instr.len]
theorem cmpRm16R16 o r : Statement (.cmpRm16R16 o r) := by simp [Statement, encode, encRm16, Instr.len]
theorem cmpR8Rm8 r o : Statement (.cmpR8Rm8 r o) := by simp [Statement, encode, encRm8, Instr.len]
theorem cmpR16Rm16 r o : Statement (.cmpR16Rm16 r o) := by simp [Statement, encode, encRm16, Instr.len]
theorem cmpAlImm8 v : Statement (.cmpAlImm8 v) := rfl
theorem cmpAxImm16 v : Statement (.cmpAxImm16 v) := rfl
theorem cmpRm8Imm8 o v : Statement (.cmpRm8Imm8 o v) := by
  simp [Statement, encode, encImm8, Instr.len]
theorem cmpRm16Imm16 o v : Statement (.cmpRm16Imm16 o v) := by
  simp [Statement, encode, encImm16, Instr.len, imm16Bytes]
theorem cmpRm8Imm8S o v : Statement (.cmpRm8Imm8S o v) := by
  simp [Statement, encode, encImm8, Instr.len]
theorem cmpRm16Imm8 o v : Statement (.cmpRm16Imm8 o v) := by
  simp [Statement, encode, encImmSext, Instr.len]
theorem jo d : Statement (.jo d) := rfl
theorem jno d : Statement (.jno d) := rfl
theorem jb d : Statement (.jb d) := rfl
theorem jnb d : Statement (.jnb d) := rfl
theorem je d : Statement (.je d) := rfl
theorem jne d : Statement (.jne d) := rfl
theorem js d : Statement (.js d) := rfl
theorem jns d : Statement (.jns d) := rfl
theorem jp d : Statement (.jp d) := rfl
theorem jnp d : Statement (.jnp d) := rfl
theorem jl d : Statement (.jl d) := rfl
theorem jnl d : Statement (.jnl d) := rfl
theorem loopnz d : Statement (.loopnz d) := rfl
theorem loopz d : Statement (.loopz d) := rfl
theorem loop d : Statement (.loop d) := rfl
theorem jcxz d : Statement (.jcxz d) := rfl

end Sys2Proof.Laws.EncodeLength
end

