-- ==== Sys2Proof/Laws/Step.lean ====
section
/-! SUPPORT. What one step can do, said once. -/

namespace Sys2Proof.Machine

/-- On legal launch inputs a step is CTRL's step. -/
theorem step_of_legal (s : State) (h : s.buf.length ≤ bufferLimit) : step s = controlStep s := by
  simp [step, launchLegal, h]

/-- A launch that is not legal is refused. -/
theorem step_of_illegal (s : State) (h : bufferLimit < s.buf.length) :
    step s = .refused .illegalLaunch := by
  simp [step, launchLegal, Nat.not_le.mpr h]

/-- A running block performs what it fetches. -/
theorem controlStep_running (s : State) (h : Running s) : controlStep s = perform s.fetch s := by
  simp [controlStep, h]

/-- What CTRL does with the decoder's output: a halt, or an instruction's execution. -/
theorem perform_cases (out : DecOut) (s : State) :
    (∃ r, r ≠ .typeMismatch ∧ perform out s = raise r s) ∨
      ∃ i, out = .ok (.known i) ∧ perform out s = exec i s := by
  cases out with
  | endOfBuffer => exact .inl ⟨_, by decide, rfl⟩
  | truncated => exact .inl ⟨_, by decide, rfl⟩
  | ok d =>
    cases d with
    | known i => exact .inr ⟨i, rfl, rfl⟩
    | unrecognized => exact .inl ⟨_, by decide, rfl⟩

/-- A run takes its first step and goes on from there, on any machine. -/
theorem run_succ_of (M : Host.Core) {s t : M.State} (k : Nat) (h : M.step s = .next t) :
    M.run (k + 1) s = M.run k t := by
  simp only [Host.Core.run, h]

/-- A run of the block takes its first step and goes on from there. -/
theorem run_succ {s t : State} (k : Nat) (h : step s = .next t) :
    Sys2Proof.core.run (k + 1) s = Sys2Proof.core.run k t :=
  run_succ_of Sys2Proof.core k h

end Sys2Proof.Machine
end

