-- ==== Sys2Proof/Tests/Slice0.lean ====
section
/-! SUPPORT. The model's own tests. Expected values come from the spec's tables and vectors
(95_test_vectors.md, the rule named at each test). The theorems named `witness_…` show a state and operands that meet the
hypotheses of the obligation they name, one conjunct for each of its clauses. -/

namespace Sys2Proof.Tests

open Sys2Proof.Machine Sys2Proof.Claims

/-! ## WellFormed: an ill-formed term for each check -/

/-- SI is no base of an index (30_encoding.md R71). -/
theorem test_wf_refuses_pairing :
    Instr.wf (.movR16Rm16 .ax (.mem (.ea ⟨.si, some .di, .d8 1⟩))) = false := by decide

/-- `[BP]` without a displacement is the direct address's encoding (30_encoding.md R72). -/
theorem test_wf_refuses_plain_bp :
    Instr.wf (.addRm8Imm8 (.mem (.ea ⟨.bp, none, .none⟩)) 1) = false := by decide

theorem test_wf_accepts :
    Instr.wf (.movR16Rm16 .ax (.mem (.ea ⟨.bp, some .di, .none⟩))) = true ∧
      Instr.wf (.cmpRm16Imm8 (.mem (.ea ⟨.bp, none, .d8 0⟩)) 1) = true := by decide

/-! ## Decoding: a word for every constructor -/

/-- 95_test_vectors.md sections 2.1, 2.2, 2.3, 2.5. -/
theorem test_decode_move :
    ∀ p ∈ [([0x88, 0xE0], Instr.movRm8R8 (.reg .al) .ah),
      ([0x89, 0x1E, 0x00, 0x02], .movRm16R16 (.mem (.direct 0x0200)) .bx),
      ([0x8A, 0x47, 0x01], .movR8Rm8 .al (.mem (.ea ⟨.bx, none, .d8 0x01⟩))),
      ([0x8B, 0x87, 0x34, 0x12], .movR16Rm16 .ax (.mem (.ea ⟨.bx, none, .d16 0x1234⟩))),
      ([0xB6, 0x01], .movR8Imm8 .dh 0x01), ([0xBF, 0x34, 0x12], .movR16Imm16 .di 0x1234),
      ([0xC6, 0x07, 0x7F], .movRm8Imm8 (.mem (.ea ⟨.bx, none, .none⟩)) 0x7F),
      ([0xC7, 0x06, 0xFF, 0xFF, 0xCD, 0xAB], .movRm16Imm16 (.mem (.direct 0xFFFF)) 0xABCD)],
      decode p.1 = .ok (.known p.2) := by decide

/-- 95_test_vectors.md sections 2.2, 2.4; `02 C3` from 42_arithmetic.md R128. -/
theorem test_decode_add :
    ∀ p ∈ [([0x00, 0xD8], Instr.addRm8R8 (.reg .al) .bl),
      ([0x01, 0x07], .addRm16R16 (.mem (.ea ⟨.bx, none, .none⟩)) .ax),
      ([0x02, 0xC3], .addR8Rm8 .al (.reg .bl)),
      ([0x03, 0x07], .addR16Rm16 .ax (.mem (.ea ⟨.bx, none, .none⟩))),
      ([0x04, 0x80], .addAlImm8 0x80), ([0x05, 0x01, 0x80], .addAxImm16 0x8001),
      ([0x80, 0xC3, 0x01], .addRm8Imm8 (.reg .bl) 0x01),
      ([0x81, 0xC3, 0x34, 0x12], .addRm16Imm16 (.reg .bx) 0x1234),
      ([0x82, 0xC3, 0xFF], .addRm8Imm8S (.reg .bl) 0xFF),
      ([0x83, 0xC3, 0xFF], .addRm16Imm8 (.reg .bx) 0xFF)],
      decode p.1 = .ok (.known p.2) := by decide

/-- 95_test_vectors.md sections 1.1, 2.2, 2.4; the others from the encodings of 42_arithmetic.md
R139, R142, R143. -/
theorem test_decode_sub :
    ∀ p ∈ [([0x28, 0xE0], Instr.subRm8R8 (.reg .al) .ah), ([0x29, 0xD8], .subRm16R16 (.reg .ax) .bx),
      ([0x2A, 0x47, 0x01], .subR8Rm8 .al (.mem (.ea ⟨.bx, none, .d8 0x01⟩))),
      ([0x2B, 0xC3], .subR16Rm16 .ax (.reg .bx)), ([0x2C, 0xFF], .subAlImm8 0xFF),
      ([0x2D, 0x01, 0x00], .subAxImm16 0x0001), ([0x80, 0xEB, 0x01], .subRm8Imm8 (.reg .bl) 0x01),
      ([0x81, 0xEB, 0x34, 0x12], .subRm16Imm16 (.reg .bx) 0x1234),
      ([0x82, 0xEB, 0x01], .subRm8Imm8S (.reg .bl) 0x01),
      ([0x83, 0xEB, 0x80], .subRm16Imm8 (.reg .bx) 0x80)],
      decode p.1 = .ok (.known p.2) := by decide

/-- 95_test_vectors.md sections 2.2, 2.4; the others from the encodings of 42_arithmetic.md R148,
R152, R154. -/
theorem test_decode_cmp :
    ∀ p ∈ [([0x38, 0xD8], Instr.cmpRm8R8 (.reg .al) .bl),
      ([0x39, 0x07], .cmpRm16R16 (.mem (.ea ⟨.bx, none, .none⟩)) .ax),
      ([0x3A, 0xC3], .cmpR8Rm8 .al (.reg .bl)), ([0x3B, 0xC3], .cmpR16Rm16 .ax (.reg .bx)),
      ([0x3C, 0x00], .cmpAlImm8 0x00), ([0x3D, 0xFF, 0xFF], .cmpAxImm16 0xFFFF),
      ([0x80, 0xFB, 0x01], .cmpRm8Imm8 (.reg .bl) 0x01),
      ([0x81, 0x3E, 0x00, 0x02, 0x34, 0x12], .cmpRm16Imm16 (.mem (.direct 0x0200)) 0x1234),
      ([0x82, 0xFB, 0x01], .cmpRm8Imm8S (.reg .bl) 0x01),
      ([0x83, 0xFB, 0x7F], .cmpRm16Imm8 (.reg .bx) 0x7F)],
      decode p.1 = .ok (.known p.2) := by decide

/-- The sixteen jump bytes of 30_encoding.md R80. -/
theorem test_decode_jump :
    ∀ p ∈ [((0x70 : Byte), Instr.jo 5), (0x71, .jno 5), (0x72, .jb 5), (0x73, .jnb 5), (0x74, .je 5),
      (0x75, .jne 5), (0x78, .js 5), (0x79, .jns 5), (0x7A, .jp 5), (0x7B, .jnp 5), (0x7C, .jl 5),
      (0x7D, .jnl 5), (0xE0, .loopnz 5), (0xE1, .loopz 5), (0xE2, .loop 5), (0xE3, .jcxz 5)],
      decode [p.1, 5] = .ok (.known p.2) := by decide

/-- The rows of 95_test_vectors.md section 2.2 that decode to the placeholder. -/
theorem test_decode_unrecognized :
    ∀ b ∈ [[0x80, 0xCB, 0x01], [0x81, 0xE3, 0x00, 0xFF], [0x83, 0xF3, 0x01], [0xC6, 0xC8, 0x01],
      [0x76, 0x00], [0x7F, 0x00], [0x06], [0x26, 0x8B, 0xC3], [0x8C, 0xC0], [0xA1, 0x00, 0x02], [0xF4],
      [0xFF, 0xFF]], decode b = .ok .unrecognized := by decide

/-- The truncated rows of 95_test_vectors.md section 2.2. -/
theorem test_decode_truncated :
    ∀ b ∈ [[0xB8, 0x05], [0x3D, 0x00], [0x80], [0x83], [0xC6], [0xC7],
      [0xC7, 0x06, 0x00, 0x02, 0x34], [0x75], [0x89], [0x8B, 0x46]], decode b = .truncated := by decide

/-- Words numbered as opcode_table.json numbers them: one byte, and `b0 * 256 + b1`. -/
theorem test_table_words :
    decodeTableWord 8 0x88 = some (.movRm8R8 (.mem (.ea ⟨.bx, some .si, .none⟩)) .al) ∧
      decodeTableWord 8 0xBA = some (.movR16Imm16 .dx 0) ∧
      decodeTableWord 16 0x8328 = some (.subRm16Imm8 (.mem (.ea ⟨.bx, some .si, .none⟩)) 0) ∧
      decodeTableWord 16 0xC7C3 = some (.movRm16Imm16 (.reg .bx) 0) ∧ decodeTableWord 8 0xF4 = none := by
  decide

/-! ## One step -/

/-- A launch with both parameters at their 8086 reading, given registers and memory. -/
def start (bytes : List Byte) (regs : RegFile) (mem : Memory) : State :=
  { State.launch ⟨.native8, .store8⟩ bytes with regs := regs, mem := mem }

/-- The same with both parameters at `refuse`. -/
def startRefusing (bytes : List Byte) (regs : RegFile) : State :=
  { State.launch ⟨.refuse, .refuse⟩ bytes with regs := regs }

/-- The state after one step, if there is one. -/
def after (s : State) : Option State :=
  match step s with
  | .next t => some t
  | .fault _ => none
  | .refused _ => none

/-- What a test of the registers looks at. -/
structure Seen where
  ax : Word
  bx : Word
  zf : Bool
  sf : Bool
  ip : Word
deriving DecidableEq, Repr

def seen (s : State) : Option Seen :=
  (after s).map fun t => ⟨t.regs.ax, t.regs.bx, t.zf, t.sf, t.ip⟩

/-- What a test of a store looks at: the memory and `ip`. -/
def stored (s : State) : Option (Memory × Word) := (after s).map fun t => (t.mem, t.ip)

/-- AX and BX given, every other register 0. -/
def ab (a b : Word) : RegFile := { RegFile.zero with ax := a, bx := b }

/-- 95_test_vectors.md section 2.3. -/
theorem test_step_mov_registers :
    seen (start [0x88, 0xC4] (ab 0x12AB 0) []) = some ⟨0xABAB, 0, false, false, 2⟩ ∧
      seen (start [0x88, 0xDF] (ab 0 0x00CD) []) = some ⟨0, 0xCDCD, false, false, 2⟩ ∧
      seen (start [0xB4, 0x56] (ab 0x0012 0) []) = some ⟨0x5612, 0, false, false, 2⟩ ∧
      seen (start [0xB8, 0x05, 0x00] RegFile.zero []) = some ⟨5, 0, false, false, 3⟩ := by decide

/-- 95_test_vectors.md section 2.5: loads, the wrap at 0xFFFF, and `mov bx, [bx]`. -/
theorem test_step_mov_loads :
    seen (start [0x8A, 0x47, 0x01] (ab 0 0x0100) [(0x0101, 0x12)]) =
        some ⟨0x0012, 0x0100, false, false, 3⟩ ∧
      seen (start [0x8B, 0x07] (ab 0 0xFFFF) [(0x0000, 0x12), (0xFFFF, 0x34)]) =
        some ⟨0x1234, 0xFFFF, false, false, 2⟩ ∧
      seen (start [0x8B, 0x1F] (ab 0 0x0100) [(0x0101, 0x02)]) = some ⟨0, 0x0200, false, false, 2⟩ ∧
      seen (start [0x8B, 0x87, 0xFF, 0xFF] (ab 0 1) [(0x0000, 0x99)]) =
        some ⟨0x0099, 1, false, false, 4⟩ := by decide

/-- 95_test_vectors.md section 2.5: the base BP with a negative displacement, and BP with DI. -/
theorem test_step_mov_bp :
    seen (start [0x8B, 0x46, 0xFE] { RegFile.zero with bp := 0x0102 }
        [(0x0100, 0x78), (0x0101, 0x56)]) = some ⟨0x5678, 0, false, false, 3⟩ ∧
      seen (start [0x8B, 0x03] { RegFile.zero with bp := 0xFF00, di := 0x0200 } [(0x0100, 0x01)]) =
        some ⟨1, 0, false, false, 2⟩ := by decide

/-- 95_test_vectors.md section 2.5: stores. -/
theorem test_step_mov_stores :
    stored (start [0x89, 0x1E, 0x00, 0x02] (ab 0 0xABCD) []) =
        some ([(0x0200, 0xCD), (0x0201, 0xAB)], 4) ∧
      stored (start [0x88, 0x26, 0x00, 0x02] (ab 0xABCD 0) []) = some ([(0x0200, 0xAB)], 4) ∧
      stored (start [0xC6, 0x07, 0x7F] (ab 0 0x0100) [(0x0101, 0xEE)]) =
        some ([(0x0100, 0x7F), (0x0101, 0xEE)], 3) ∧
      stored (start [0xC7, 0x06, 0xFF, 0xFF, 0xCD, 0xAB] RegFile.zero []) =
        some ([(0x0000, 0xAB), (0xFFFF, 0xCD)], 6) := by decide

/-- Writing 0x00 unlists the byte. -/
theorem test_step_mov_zero :
    stored (start [0xC6, 0x07, 0x00] (ab 0 0x0100) [(0x0100, 0x7F), (0x0101, 0xEE)]) =
      some ([(0x0101, 0xEE)], 3) := by decide

/-- 95_test_vectors.md section 2.4: Add. -/
theorem test_step_add :
    seen (start [0x01, 0xD8] (ab 0x7FFF 1) []) = some ⟨0x8000, 1, false, true, 2⟩ ∧
      seen (start [0x00, 0xD8] (ab 0x12FF 1) []) = some ⟨0x1200, 1, true, false, 2⟩ ∧
      seen (start [0x04, 0x80] (ab 0x3300 0) []) = some ⟨0x3380, 0, false, true, 2⟩ ∧
      seen (start [0x83, 0xC3, 0xFF] (ab 0 1) []) = some ⟨0, 0, true, false, 3⟩ ∧
      seen (start [0x03, 0x07] (ab 1 0x0100) [(0x0100, 0xFF), (0x0101, 0x7F)]) =
        some ⟨0x8000, 0x0100, false, true, 2⟩ := by decide

/-- 95_test_vectors.md section 2.4: Subtract. -/
theorem test_step_sub :
    seen (start [0x29, 0xD8] (ab 0 1) []) = some ⟨0xFFFF, 1, false, true, 2⟩ ∧
      seen (start [0x28, 0xE0] (ab 0x0100 0) []) = some ⟨0x01FF, 0, false, true, 2⟩ ∧
      seen (start [0x83, 0xEB, 0x80] (ab 0 0) []) = some ⟨0, 0x0080, false, false, 3⟩ ∧
      seen (start [0x82, 0xEB, 0x01] (ab 0 0x1200) []) = some ⟨0, 0x12FF, false, true, 3⟩ ∧
      seen (start [0x2A, 0x47, 0x01] (ab 0x0010 0x0100) [(0x0101, 0x20)]) =
        some ⟨0x00F0, 0x0100, false, true, 3⟩ := by decide

/-- 95_test_vectors.md section 2.4: Compare. -/
theorem test_step_cmp :
    seen (start [0x39, 0xD8] (ab 5 6) []) = some ⟨5, 6, false, true, 2⟩ ∧
      seen (start [0x3B, 0xC3] (ab 0x8000 1) []) = some ⟨0x8000, 1, false, false, 2⟩ ∧
      seen (start [0x3C, 0x00] (ab 0xFF00 0) []) = some ⟨0xFF00, 0, true, false, 2⟩ ∧
      seen (start [0x39, 0x07] (ab 0x1234 0x0100) [(0x0100, 0x34), (0x0101, 0x12)]) =
        some ⟨0x1234, 0x0100, true, false, 2⟩ := by decide

/-- 95_test_vectors.md sections 2.4 and 2.5: the halts with Unsupported-Operation, `ip` kept. -/
theorem test_step_unsupported :
    ∀ s ∈ [start [0x01, 0x07] (ab 1 0x0100) [], start [0x83, 0x07, 0x01] (ab 0 0x0100) [],
      startRefusing [0x00, 0xD8] (ab 0x12FF 1), startRefusing [0x3C, 0x00] (ab 0xFF00 0),
      startRefusing [0xC6, 0x07, 0x7F] (ab 0 0x0100), start [0xE2, 0xFE] RegFile.zero []],
      after s = some (s.halt .unsupportedOperation) := by decide

/-- 95_test_vectors.md section 2.5: the register form is not refused. -/
theorem test_step_mov_half_refusing :
    seen (startRefusing [0xC6, 0xC4, 0x7F] (ab 0x0011 0)) = some ⟨0x7F11, 0, false, false, 3⟩ := by decide

/-- A jump at 0x0010 with given flags: where it goes. -/
def jumped (op d : Byte) (z g : Bool) : Option Word :=
  (after { State.launch ⟨.native8, .store8⟩ (List.replicate 16 0 ++ [op, d]) with
    ip := 0x0010, zf := z, sf := g }).map (·.ip)

/-- 95_test_vectors.md section 2.6. -/
theorem test_step_jumps :
    jumped 0x74 0x05 false false = some 0x0012 ∧ jumped 0x74 0x05 true false = some 0x0017 ∧
      jumped 0x75 0x05 false false = some 0x0017 ∧ jumped 0x75 0x05 true false = some 0x0012 ∧
      jumped 0x78 0x80 false true = some 0xFF92 ∧ jumped 0x78 0x80 false false = some 0x0012 ∧
      jumped 0x79 0x7F false false = some 0x0091 ∧ jumped 0x79 0x7F false true = some 0x0012 ∧
      jumped 0x7C 0x05 false true = some 0x0010 := by decide

/-- Decode errors and the end of the buffer (60_exceptions.md R177, R178, R181). -/
theorem test_step_decode_halts :
    (after (start [0x89] RegFile.zero [])).map (·.runState) = some (.halted .truncatedInstruction) ∧
      (after (start [0xF4] RegFile.zero [])).map (·.runState) = some (.halted .unrecognizedOpcode) ∧
      (after State.reset).map (·.runState) = some (.halted .endOfStream) := by decide

/-- A word placed at `ip` runs as the first instruction after reset. -/
theorem test_fetch_word :
    step (State.reset.withFetchWord 8 0xB8) = exec (.movR16Imm16 .ax 0)
        (State.reset.withFetchWord 8 0xB8) ∧
      (after (State.reset.withFetchWord 16 0xC700)).map (·.ip) = some 4 := by
  exact ⟨rfl, by decide⟩

/-- 95_test_vectors.md section 2.7: the decode-only sequences of P5 and P6. -/
theorem test_listing :
    (listing 4 (start [0xB8, 0xFF, 0x7F, 0x05, 0x01, 0x00, 0x05, 0x01] RegFile.zero [])).1 =
        [.known (.movR16Imm16 .ax 0x7FFF), .known (.addAxImm16 1)] ∧
      (listing 4 (start [0xB8, 0xFF, 0x7F, 0x05, 0x01, 0x00, 0x05, 0x01] RegFile.zero [])).2.1 =
        .truncated ∧
      (listing 4 (start [0x3C, 0x00, 0x74, 0x01, 0xF4, 0x72, 0x00] RegFile.zero [])).1 =
        [.known (.cmpAlImm8 0), .known (.je 1), .unrecognized] ∧
      (listing 4 (start [0x3C, 0x00, 0x74, 0x01, 0xF4, 0x72, 0x00] RegFile.zero [])).2.1 =
        .unrecognized := by decide

/-! ## Witnesses: decoding and encoding -/

theorem witness_DecodeInvertsEncode :
    Instr.wf (.cmpRm16Imm16 (.mem (.ea ⟨.bp, none, .d8 0xFE⟩)) 0x1234) = true ∧
      Instr.wf (.movRm8R8 (.mem (.direct 0xFFFF)) .bh) = true ∧ Instr.wf (.jcxz 0x80) = true := by decide

theorem witness_EncodeInvertsDecode :
    decode [0x83, 0x46, 0xFE, 0x80, 0x90] =
      .ok (.known (.addRm16Imm8 (.mem (.ea ⟨.bp, none, .d8 0xFE⟩)) 0x80)) := by decide

theorem witness_TruncatedIffProperPrefix :
    decode [0xC7, 0x06, 0xFF, 0xFF, 0xCD] = .truncated ∧
      Instr.wf (.movRm16Imm16 (.mem (.direct 0xFFFF)) 0xABCD) = true ∧
      5 < Instr.len (.movRm16Imm16 (.mem (.direct 0xFFFF)) 0xABCD) := by decide

theorem witness_ImmediateToRegisterRoundTrip :
    ((0xB0 : Byte) &&& 0xF0 = 0xB0 ∧ decode [0xB0, 0x7F] = .ok (.known (.movR8Imm8 .al 0x7F))) ∧
      (0xBF : Byte) &&& 0xF0 = 0xB0 ∧
        decode [0xBF, 0x34, 0x12] = .ok (.known (.movR16Imm16 .di 0x1234)) := by decide

/-- Each clause at both ends of its range (30_encoding.md R81). -/
theorem witness_UnrecognizedSpace :
    (∀ b ∈ [(0x06 : Byte), 0x27, 0x2E, 0x37, 0x3E, 0x6F, 0x76, 0x77, 0x7E, 0x7F, 0x84, 0x87, 0x8C, 0xAF,
        0xC0, 0xC5, 0xC8, 0xDF, 0xE4, 0xFF], decode [b] = .ok .unrecognized) ∧
      (∀ b ∈ [(0x05 : Byte), 0x28, 0x75, 0x80, 0xC7, 0xE3], decode [b] = .truncated) ∧
      ∀ b ∈ [(0x80 : Byte), 0x83], ∀ m ∈ [(0x08 : Byte), 0x20, 0x30],
        decode [b, m] = .ok .unrecognized := by decide

theorem witness_UnrecognizedSpace_move :
    (∀ b ∈ [(0xC6 : Byte), 0xC7], ∀ m ∈ [(0x08 : Byte), 0x38], decode [b, m] = .ok .unrecognized) ∧
      regField 0x08 ≠ 0 ∧ regField 0x38 ≠ 0 := by decide

theorem witness_ClassifierOrderIrrelevant :
    (∃ r ∈ opcodeTable, r.hits 0x80 (some 0x28) = true) ∧ opcodeTable.reverse.Perm opcodeTable :=
  ⟨by decide, List.reverse_perm _⟩

theorem witness_ResolverByteCount :
    resolve reg16Of 3 6 [] = some (.reg .si, []) ∧
      resolve reg16Of 0 7 [1] = some (.mem (.ea ⟨.bx, none, .none⟩), [1]) ∧
      resolve reg16Of 1 6 [1, 2] = some (.mem (.ea ⟨.bp, none, .d8 1⟩), [2]) ∧
      resolve reg16Of 2 0 [1, 2, 3] = some (.mem (.ea ⟨.bx, some .si, .d16 0x0201⟩), [3]) ∧
      resolve reg16Of 0 6 [1, 2] = some (.mem (.direct 0x0201), []) := by decide

/-- Both widths, an operand that resolves and one that does not, at both ends of the range. -/
theorem witness_RmFormAssembly :
    ((0x88 : Byte) &&& 0xFC = 0x88 ∧ (0x8B : Byte) &&& 0xFC = 0x88) ∧
      ((0x8B : Byte).getLsbD 0 = true ∧ (0x88 : Byte).getLsbD 0 = false) ∧
      resolve reg16Of (modField 0x46) (rmField 0x46) [] = none ∧
      resolve reg8Of (modField 0x06) (rmField 0x06) [1] = none ∧
      resolve reg16Of (modField 0x46) (rmField 0x46) [0xFE] =
        some (.mem (.ea ⟨.bp, none, .d8 0xFE⟩), []) ∧
      resolve reg8Of (modField 0xE0) (rmField 0xE0) [] = some (.reg .al, []) := by decide

theorem witness_ImmRegFormAssembly :
    ((0xB0 : Byte) &&& 0xF0 = 0xB0 ∧ (0xB0 : Byte).getLsbD 3 = false) ∧
      (0xBF : Byte) &&& 0xF0 = 0xB0 ∧ (0xBF : Byte).getLsbD 3 = true := by decide

theorem witness_ImmAccAndMovImmRmAssembly :
    ((0x3C : Byte) &&& 0xFE = 0x3C ∧ (0x3C : Byte).getLsbD 0 = false) ∧
      ((0x05 : Byte) &&& 0xFE = 0x04 ∧ (0x05 : Byte).getLsbD 0 = true) ∧ regField 0x06 = 0 ∧
      resolve reg16Of (modField 0x06) (rmField 0x06) [1] = none ∧
      resolve reg8Of (modField 0x06) (rmField 0x06) [1] = none ∧
      resolve reg16Of (modField 0x06) (rmField 0x06) [1, 2, 3] = some (.mem (.direct 0x0201), [3]) ∧
      resolve reg16Of (modField 0x06) (rmField 0x06) [1, 2, 3, 4] =
        some (.mem (.direct 0x0201), [3, 4]) ∧
      resolve reg8Of (modField 0x06) (rmField 0x06) [1, 2] = some (.mem (.direct 0x0201), []) ∧
      resolve reg8Of (modField 0x06) (rmField 0x06) [1, 2, 3] = some (.mem (.direct 0x0201), [3]) := by
  decide

theorem witness_ImmRmFormAssembly :
    ((0x80 : Byte) &&& 0xFC = 0x80 ∧ (0x80 : Byte).getLsbD 0 = false) ∧
      ((0x81 : Byte) &&& 0xFC = 0x80 ∧ (0x81 : Byte).getLsbD 0 = true ∧
        (0x81 : Byte).getLsbD 1 = false) ∧
      ((0x83 : Byte) &&& 0xFC = 0x80 ∧ (0x83 : Byte).getLsbD 0 = true ∧ (0x83 : Byte).getLsbD 1 = true) ∧
      (regField 0x46 = 0 ∧ regField 0xEB = 5 ∧ regField 0x7E = 7) ∧
      (resolve reg16Of (modField 0x46) (rmField 0x46) [] = none ∧
        resolve reg8Of (modField 0x46) (rmField 0x46) [] = none) ∧
      (resolve reg16Of (modField 0x46) (rmField 0x46) [9] =
          some (.mem (.ea ⟨.bp, none, .d8 9⟩), []) ∧
        resolve reg8Of (modField 0x46) (rmField 0x46) [9] =
          some (.mem (.ea ⟨.bp, none, .d8 9⟩), [])) ∧
      resolve reg16Of (modField 0xEB) (rmField 0xEB) [1] = some (.reg .bx, [1]) ∧
      resolve reg16Of (modField 0xEB) (rmField 0xEB) [1, 2] = some (.reg .bx, [1, 2]) ∧
      resolve reg8Of (modField 0xEB) (rmField 0xEB) [1] = some (.reg .bl, [1]) := by decide

/-! ## Witnesses: execution -/

/-- A small running state with memory, under the 8086 reading of the parameters. -/
def sample (bytes : List Byte) : State := start bytes (ab 0x1234 0x0100) [(0x0100, 0x7F)]

theorem witness_AluResultsAndFlags : 0 < 8 ∧ 0 < 16 := by decide

theorem witness_WordMemoryIsLittleEndian :
    (0x0001 : Word) ≠ 0xFFFF ∧ (0x0001 : Word) ≠ 0xFFFF + 1 := by decide

theorem witness_HalfRegisterViews : Reg16.si ≠ .ax ∧ Reg16.ax ≠ .dx := by decide

/-- The hypothesis of `ByteAdds`, `ByteSubtracts` and `ByteCompares`. -/
theorem witness_native8 : (sample []).config.arith8 = .native8 := rfl

/-- 16-bit: `add ax, [bx]` then `sub ax, 0x007F`, the word at [BX] being 0x007F. 8-bit: `add al, bl`
then `sub al, 0x00` through 0x82, BL being 0x00. -/
theorem witness_AddThenSubtractRestores :
    (Instr.record (.addR16Rm16 .ax (.mem (.ea ⟨.bx, none, .none⟩))) =
        record16 (.arithmetic .add .rm) (.reg .ax) (.rm (.mem (.ea ⟨.bx, none, .none⟩))) 2 ∧
      Instr.record (.subAxImm16 0x007F) =
        record16 (.arithmetic .sub .immAcc) (.reg .ax) (.imm 0x007F) 3 ∧
      ∃ t, exec (.addR16Rm16 .ax (.mem (.ea ⟨.bx, none, .none⟩))) (sample []) = .next t ∧
        value16 t (.imm 0x007F) = value16 (sample []) (.rm (.mem (.ea ⟨.bx, none, .none⟩)))) ∧
      (sample []).config.arith8 = .native8 ∧
      Instr.record (.addRm8R8 (.reg .al) .bl) =
        record8 (.arithmetic .add .rm) (.reg .al) (.rm (.reg .bl)) 2 ∧
      Instr.record (.subRm8Imm8S (.reg .al) 0) =
        record8 (.arithmetic .sub .immRm) (.reg .al) (.imm 0) 3 ∧
      ∃ t, exec (.addRm8R8 (.reg .al) .bl) (sample []) = .next t ∧
        value8 t (.imm 0) = value8 (sample []) (.rm (.reg .bl)) :=
  ⟨⟨rfl, rfl, _, rfl, by decide⟩, rfl, rfl, rfl, _, rfl, by decide⟩

theorem witness_MovesToMemory : (sample []).config.movbMem = .store8 := rfl

theorem witness_ParameterRefusals :
    ((startRefusing [] RegFile.zero).config.arith8 = .refuse ∧
      IsArithmetic (.cmpRm8R8 (.mem (.direct 0)) .bh) ∧
      (Instr.record (.cmpRm8R8 (.mem (.direct 0)) .bh)).width = some .w8) ∧
      (startRefusing [] RegFile.zero).config.movbMem = .refuse :=
  ⟨⟨rfl, ⟨.cmp, .rm, rfl⟩, rfl⟩, rfl⟩

theorem witness_ImmediateToRegisterSteps :
    (Legal (sample [0xB7, 0xFF]) ∧ Running (sample [0xB7, 0xFF]) ∧
        (sample [0xB7, 0xFF]).buf.drop (sample [0xB7, 0xFF]).ip.toNat =
          (0xB0 ||| (reg8Num .bh).zeroExtend 8) :: 0xFF :: []) ∧
      (Legal (sample [0xB0]) ∧ Running (sample [0xB0]) ∧
        (sample [0xB0]).buf.drop (sample [0xB0]).ip.toNat = [0xB0 ||| (reg8Num .al).zeroExtend 8]) ∧
      (Legal (sample [0xBF, 0x34, 0x12]) ∧ Running (sample [0xBF, 0x34, 0x12]) ∧
        (sample [0xBF, 0x34, 0x12]).buf.drop (sample [0xBF, 0x34, 0x12]).ip.toNat =
          (0xB8 ||| (reg16Num .di).zeroExtend 8) :: 0x34 :: 0x12 :: []) ∧
      Legal (sample [0xB8, 0x05]) ∧ Running (sample [0xB8, 0x05]) ∧ [(0x05 : Byte)].length < 2 ∧
        (sample [0xB8, 0x05]).buf.drop (sample [0xB8, 0x05]).ip.toNat =
          (0xB8 ||| (reg16Num .ax).zeroExtend 8) :: [0x05] := by decide

theorem witness_ByteMoveToRegisterFrame :
    ∀ i ∈ [Instr.movRm8R8 (.reg .ah) .al, .movR8Rm8 .ah (.mem (.direct 0x0100)), .movR8Imm8 .ah 5,
      .movRm8Imm8 (.reg .ah) 5], ∃ t, exec i (sample []) = .next t := by
  intro i hi
  simp only [List.mem_cons, List.not_mem_nil, or_false] at hi
  rcases hi with rfl | rfl | rfl | rfl <;> exact ⟨_, rfl⟩

theorem witness_WordMoveToRegisterFrame :
    ∀ i ∈ [Instr.movRm16R16 (.reg .bp) .ax, .movR16Rm16 .bp (.mem (.direct 0xFFFF)),
      .movR16Imm16 .bp 5, .movRm16Imm16 (.reg .bp) 5], ∃ t, exec i (sample []) = .next t := by
  intro i hi
  simp only [List.mem_cons, List.not_mem_nil, or_false] at hi
  rcases hi with rfl | rfl | rfl | rfl <;> exact ⟨_, rfl⟩

/-- A store at the top of memory. -/
theorem witness_MoveToMemoryFrame :
    address (sample []).regs (.direct 0xFFFF) = 0xFFFF ∧
      ∀ i ∈ [Instr.movRm8R8 (.mem (.direct 0xFFFF)) .al, .movRm8Imm8 (.mem (.direct 0xFFFF)) 1,
        .movRm16R16 (.mem (.direct 0xFFFF)) .ax, .movRm16Imm16 (.mem (.direct 0xFFFF)) 1],
        ∃ t, exec i (sample []) = .next t ∧ Running t := by
  refine ⟨rfl, fun i hi => ?_⟩
  simp only [List.mem_cons, List.not_mem_nil, or_false] at hi
  rcases hi with rfl | rfl | rfl | rfl <;> exact ⟨_, rfl, rfl⟩

theorem witness_ByteArithmeticFrame :
    (∃ t, exec (.subR8Rm8 .bh (.mem (.direct 0x0100))) (sample []) = .next t ∧ Running t) ∧
      ∃ t, exec (.addAlImm8 1) (sample []) = .next t ∧ Running t :=
  ⟨⟨_, rfl, rfl⟩, ⟨_, rfl, rfl⟩⟩

theorem witness_WordArithmeticFrame :
    (∃ t, exec (.subRm16Imm8 (.reg .di) 0x80) (sample []) = .next t ∧ Running t) ∧
      ∃ t, exec (.subAxImm16 1) (sample []) = .next t ∧ Running t :=
  ⟨⟨_, rfl, rfl⟩, ⟨_, rfl, rfl⟩⟩

theorem witness_CompareFrame :
    (Instr.record (.cmpRm16R16 (.mem (.direct 0x0100)) .ax)).opcode = .arithmetic .cmp .rm ∧
      ∃ t, exec (.cmpRm16R16 (.mem (.direct 0x0100)) .ax) (sample []) = .next t ∧ Running t :=
  ⟨rfl, _, rfl, rfl⟩

theorem witness_JumpFrame :
    IsJump (.jne 0x80) ∧ ∃ t, exec (.jne 0x80) (sample []) = .next t ∧ Running t :=
  ⟨⟨.ne, rfl⟩, _, rfl, rfl⟩

theorem witness_FlagWritersAndReaders :
    ((∃ t, exec (.movR8Imm8 .al 0) (sample []) = .next t) ∧ ¬ IsArithmetic (.movR8Imm8 .al 0)) ∧
      (∀ d, Instr.addAxImm16 0 ≠ .je d ∧ Instr.addAxImm16 0 ≠ .jne d ∧ Instr.addAxImm16 0 ≠ .js d ∧
        Instr.addAxImm16 0 ≠ .jns d) ∧ IsArithmetic (.addAxImm16 0) ∧
      ∃ t, exec (.addAxImm16 0) (sample []) = .next t ∧ Running t := by
  refine ⟨⟨⟨_, rfl⟩, ?_⟩, fun d => by simp, ⟨.add, .immAcc, rfl⟩, _, rfl, rfl⟩
  rintro ⟨f, v, h⟩
  cases h

theorem witness_NoOtherControlTransfer :
    (∃ t, exec (.addR16Rm16 .cx (.reg .bx)) (sample []) = .next t) ∧
      ¬ IsJump (.addR16Rm16 .cx (.reg .bx)) ∧ ¬ Names (.addR16Rm16 .cx (.reg .bx)) .sp ∧
      ¬ MemoryOperand (Instr.record (.addR16Rm16 .cx (.reg .bx))).dst := by
  refine ⟨⟨_, rfl⟩, ?_, ?_, ?_⟩
  · rintro ⟨c, h⟩; cases h
  · rintro (h | ⟨r, h, -⟩) <;> cases h
  · rintro (⟨e, h⟩ | ⟨a, h⟩) <;> cases h

theorem witness_InstructionBufferReadOnly : ∃ t, step (sample [0x88, 0x07]) = .next t := ⟨_, rfl⟩

/-- Each cause at an instruction that has it. -/
theorem witness_UnsupportedOperationCauses :
    Running (sample []) ∧ Running (startRefusing [] RegFile.zero) ∧
      (∀ i ∈ [Instr.addRm16R16 (.mem (.direct 0)) .ax, .jcxz 0],
        ∃ t, exec i (sample []) = .next t ∧ HaltedFor t .unsupportedOperation) ∧
      ∀ i ∈ [Instr.cmpAlImm8 0, .movRm8Imm8 (.mem (.direct 0)) 1],
        ∃ t, exec i (startRefusing [] RegFile.zero) = .next t ∧
          HaltedFor t .unsupportedOperation := by
  refine ⟨rfl, rfl, fun i hi => ?_, fun i hi => ?_⟩ <;>
    simp only [List.mem_cons, List.not_mem_nil, or_false] at hi <;>
    rcases hi with rfl | rfl <;> exact ⟨_, rfl, rfl⟩

/-! ## Witnesses: the step, reset, decode-only mode -/

theorem witness_StepRunsDecodedInstruction :
    Legal (sample [0x03, 0x07]) ∧ Running (sample [0x03, 0x07]) ∧
      decode ((sample [0x03, 0x07]).buf.drop (sample [0x03, 0x07]).ip.toNat) =
        .ok (.known (.addR16Rm16 .ax (.mem (.ea ⟨.bx, none, .none⟩)))) := by decide

theorem witness_RunLoopStep :
    (Legal ((sample []).halt .typeMismatch) ∧
        HaltedFor ((sample []).halt .typeMismatch) .typeMismatch) ∧
      Legal (sample []) ∧ Running (sample []) ∧
      decodeAt (sample []).buf (sample []).ip.toNat = .endOfBuffer ∧
      decodeAt (sample [0x80]).buf (sample [0x80]).ip.toNat = .truncated ∧
      decodeAt (sample [0xFF]).buf (sample [0xFF]).ip.toNat = .ok .unrecognized ∧
      decodeAt (sample [0x75, 0xFE]).buf (sample [0x75, 0xFE]).ip.toNat = .ok (.known (.jne 0xFE)) := by
  decide

theorem witness_HaltChangesNothingElse :
    Running (sample [0x01, 0x07]) ∧
      ∃ t, step (sample [0x01, 0x07]) = .next t ∧ HaltedFor t .unsupportedOperation :=
  ⟨rfl, _, rfl, rfl⟩

/-- `ip = L` and `ip = L - 1`. -/
theorem witness_EndOfStreamIffPastEnd :
    Legal { sample [0xF4, 0xF4] with ip := 2 } ∧ Running { sample [0xF4, 0xF4] with ip := 2 } ∧
      ([0xF4, 0xF4] : List Byte).length ≤ (2 : Word).toNat ∧
      ¬ ([0xF4, 0xF4] : List Byte).length ≤ (1 : Word).toNat := by decide

theorem witness_HaltIsFinal :
    Legal ((sample []).halt .endOfStream) ∧
      HaltedFor ((sample []).halt .endOfStream) .endOfStream := by decide

theorem witness_TypeMismatchNeverOccurs :
    (Running (sample [0x88, 0xE0]) ∧ ∃ t, step (sample [0x88, 0xE0]) = .next t) ∧
      moveCheck (.reg (.r8 .al)) (.reg (.r16 .sp)) = some .typeMismatch ∧
      moveCheck (.reg (.r16 .ax)) (.reg (.r8 .bh)) = some .typeMismatch :=
  ⟨⟨rfl, _, rfl⟩, by decide, by decide⟩

/-- The longest legal buffer, and one byte more. -/
theorem witness_LegalRunsAreSafe :
    Legal (sample (List.replicate 65536 0)) ∧ ¬ Legal (sample (List.replicate 65537 0)) := by
  have h : ∀ n, (sample (List.replicate n 0)).buf.length = n := fun n => List.length_replicate
  simp only [Legal, h, bufferLimit]
  decide

/-- A jump to itself at position 0 with the given flags. -/
def selfJump (op : Byte) (z g : Bool) : State := { sample [op, 0xFE] with zf := z, sf := g }

theorem witness_SelfJumpRunsForever :
    ∀ p ∈ [(selfJump 0x74 true false, Instr.je 0xFE), (selfJump 0x75 false true, .jne 0xFE),
      (selfJump 0x78 false true, .js 0xFE), (selfJump 0x79 true false, .jns 0xFE)],
      Legal p.1 ∧ Running p.1 ∧ ((p.2 = .je 0xFE ∧ p.1.zf = true) ∨ (p.2 = .jne 0xFE ∧ p.1.zf = false) ∨
        (p.2 = .js 0xFE ∧ p.1.sf = true) ∨ (p.2 = .jns 0xFE ∧ p.1.sf = false)) ∧
        decode (p.1.buf.drop p.1.ip.toNat) = .ok (.known p.2) := by decide

theorem witness_ResetMeetsInvariant :
    (List.replicate 65536 (0x90 : Byte)).length ≤ bufferLimit := by
  rw [List.length_replicate, bufferLimit]

theorem sample_mem : Memory.wf [(0x0100, 0x7F)] := by decide

theorem sample_inv (b : List Byte) (h : b.length ≤ bufferLimit) : (sample b).Inv where
  mem := sample_mem
  buf := h
  cursor := Nat.zero_le _

theorem witness_StepKeepsInvariant :
    (sample [0x89, 0x07]).Inv ∧ ∃ t, step (sample [0x89, 0x07]) = .next t ∧ Running t :=
  ⟨sample_inv _ (by decide), _, rfl, rfl⟩

theorem witness_DecodeOnlyCall :
    decodeAt (sample [0x75, 0xFE]).buf (sample [0x75, 0xFE]).cursor = .ok (.known (.jne 0xFE)) ∧
      (∀ d, decodeAt (sample []).buf (sample []).cursor ≠ .ok d) ∧ (sample [0x75, 0xFE]).Inv := by
  have h : decodeAt (sample []).buf (sample []).cursor = .endOfBuffer := rfl
  refine ⟨rfl, fun d => ?_, sample_inv [0x75, 0xFE] (by decide)⟩
  rw [h]
  exact DecOut.noConfusion

/-- The cursor at the start and at the end of the buffer. -/
theorem witness_DecodeOnlySequenceEnds :
    (sample [0x75, 0xFE]).cursor ≤ (sample [0x75, 0xFE]).buf.length ∧
      { sample [0x75, 0xFE] with cursor := 2 }.cursor ≤ (sample [0x75, 0xFE]).buf.length := by decide

theorem witness_ObservationIsFaithful :
    Memory.wf (sample []).mem ∧ ((0x0100 : Word).toNat, (0x7F : Byte)) ∈ (observe (sample [])).cells := by
  decide

end Sys2Proof.Tests
end

section
/-! PROOFS. The 8-bit views of the register file (O15) and the reset values (O55), 10_state.md. -/

namespace Sys2Proof.Machine

/-! ## The two halves of a cell as numbers, and what a half write does to the cells -/

theorem Half.toNat_low_of (v : Word) : (Half.low.of v).toNat = v.toNat % 256 := by
  simp [Half.of, lowByte]

theorem Half.toNat_high_of (v : Word) : (Half.high.of v).toNat = v.toNat / 256 := by
  have hv : v.toNat / 256 < 256 := by have := v.isLt; omega
  simp [Half.of, highByte, Nat.shiftRight_eq_div_pow, Nat.mod_eq_of_lt hv]

@[simp] theorem RegFile.get16_set8_cell (f : RegFile) (r : Reg8) (v : Byte) :
    (f.set8 r v).get16 (cellOf r) = (halfOf r).replace (f.get16 (cellOf r)) v := by
  simp [RegFile.get16_set8]

theorem RegFile.get16_set8_other (f : RegFile) (r : Reg8) (q : Reg16) (v : Byte)
    (h : q ≠ cellOf r) : (f.set8 r v).get16 q = f.get16 q := by
  simp [RegFile.get16_set8, h]

/-! ## The 8-bit names by half (R25, R26, R28) -/

/-- What R26 and R28 say of a low name. -/
theorem RegFile.low_view (r : Reg8) (hr : halfOf r = .low) (f : RegFile) (v : Byte) :
    (f.get8 r).toNat = (f.get16 (cellOf r)).toNat % 256 ∧
      (f.set8 r v).get16 (cellOf r) = (f.get16 (cellOf r)).extractLsb' 8 8 ++ v ∧
      ∀ q, q ≠ cellOf r → (f.set8 r v).get16 q = f.get16 q := by
  refine ⟨?_, ?_, fun q hq => f.get16_set8_other r q v hq⟩
  · rw [RegFile.get8, hr, Half.toNat_low_of]
  · rw [RegFile.get16_set8_cell, hr]; rfl

/-- What R26 and R28 say of a high name. -/
theorem RegFile.high_view (r : Reg8) (hr : halfOf r = .high) (f : RegFile) (v : Byte) :
    (f.get8 r).toNat = (f.get16 (cellOf r)).toNat / 256 ∧
      (f.set8 r v).get16 (cellOf r) = v ++ (f.get16 (cellOf r)).extractLsb' 0 8 ∧
      ∀ q, q ≠ cellOf r → (f.set8 r v).get16 q = f.get16 q := by
  refine ⟨?_, ?_, fun q hq => f.get16_set8_other r q v hq⟩
  · rw [RegFile.get8, hr, Half.toNat_high_of]
  · rw [RegFile.get16_set8_cell, hr]; rfl

/-- The low row of R25: each name is the low half of its cell. -/
theorem lowNames_view : ∀ p ∈ [(Reg8.al, Reg16.ax), (.bl, .bx), (.cl, .cx), (.dl, .dx)],
    p.2 = cellOf p.1 ∧ halfOf p.1 = .low := by decide

/-- The high row of R25: each name is the high half of its cell. -/
theorem highNames_view : ∀ p ∈ [(Reg8.ah, Reg16.ax), (.bh, .bx), (.ch, .cx), (.dh, .dx)],
    p.2 = cellOf p.1 ∧ halfOf p.1 = .high := by decide

/-- Settles O15: each name of the statement's lists is the half of its cell that R25 gives it, and
each half has its view lemma. -/
theorem halfRegisterViews : Obligations.HalfRegisterViews := by
  refine ⟨fun p hp f v => ?_, fun p hp f v => ?_, RegFile.get16_set16⟩
  · obtain ⟨hcell, hhalf⟩ := lowNames_view p hp
    rw [hcell]
    exact RegFile.low_view p.1 hhalf f v
  · obtain ⟨hcell, hhalf⟩ := highNames_view p hp
    rw [hcell]
    exact RegFile.high_view p.1 hhalf f v

/-! ## The reset values (R39) -/

@[simp] theorem RegFile.get16_zero (r : Reg16) : RegFile.zero.get16 r = 0 := by cases r <;> rfl

@[simp] theorem RegFile.get8_zero (r : Reg8) : RegFile.zero.get8 r = 0 := by cases r <;> rfl

@[simp] theorem Memory.read8_nil (a : Word) : Memory.read8 [] a = 0 := Memory.readAt_nil a.toNat

/-- Settles O55, from the value of each field at launch; `State.reset` is the launch of the empty
buffer. -/
theorem resetValues : Obligations.ResetValues := by
  refine ⟨?_, Config.chosen, [], rfl⟩
  rintro c b s rfl
  exact ⟨RegFile.get16_zero, RegFile.get8_zero, State.launch_zf c b, State.launch_sf c b,
    Memory.read8_nil, State.launch_ip c b, State.launch_runState c b, State.launch_cursor c b,
    State.launch_buf c b, State.launch_config c b⟩

end Sys2Proof.Machine
end

section
/-! PROOFS. The instruction buffer is read-only (O45), 20_memory.md R42. An execution is shown blind
to the buffer family by family: its reads ignore it, and its writes commute with replacing it. -/

namespace Sys2Proof.Machine

/-! ## Another buffer in the state -/

/-- The state with another instruction buffer. -/
def State.withBuf (s : State) (b : List Byte) : State := { s with buf := b }

@[simp] theorem State.withBuf_zf (s : State) (b : List Byte) : (s.withBuf b).zf = s.zf := rfl

@[simp] theorem State.withBuf_sf (s : State) (b : List Byte) : (s.withBuf b).sf = s.sf := rfl

/-! ## Reads ignore the buffer, and writes keep it apart -/

@[simp] theorem readRm8_withBuf (s : State) (b : List Byte) (o : Rm8) :
    readRm8 (s.withBuf b) o = readRm8 s o := by cases o <;> rfl

@[simp] theorem readRm16_withBuf (s : State) (b : List Byte) (o : Rm16) :
    readRm16 (s.withBuf b) o = readRm16 s o := by cases o <;> rfl

@[simp] theorem value8_withBuf (s : State) (b : List Byte) (q : Src8) :
    value8 (s.withBuf b) q = value8 s q := by
  cases q with
  | rm o => exact readRm8_withBuf s b o
  | imm v => rfl

@[simp] theorem value16_withBuf (s : State) (b : List Byte) (q : Src16) :
    value16 (s.withBuf b) q = value16 s q := by
  cases q with
  | rm o => exact readRm16_withBuf s b o
  | imm v => rfl
  | immSext v => rfl

@[simp] theorem writeRm8_withBuf (s : State) (b : List Byte) (o : Rm8) (v : Byte) :
    writeRm8 (s.withBuf b) o v = (writeRm8 s o v).withBuf b := by cases o <;> rfl

@[simp] theorem writeRm16_withBuf (s : State) (b : List Byte) (o : Rm16) (v : Word) :
    writeRm16 (s.withBuf b) o v = (writeRm16 s o v).withBuf b := by cases o <;> rfl

/-! ## Executions blind to the buffer -/

/-- The execution answers a next state, and with any other buffer the same one with that buffer. -/
def BufferBlind (g : State → Outcome) : Prop :=
  ∀ (s : State) (b : List Byte), ∃ t, g s = .next t ∧ g (s.withBuf b) = .next (t.withBuf b)

theorem execMove8_bufferBlind (dst : Rm8) (src : Src8) (n : Nat) :
    BufferBlind (execMove8 dst src n) := by
  intro s b
  refine ⟨_, execMove8_eq dst src n s, ?_⟩
  rw [execMove8_eq, value8_withBuf, writeRm8_withBuf]
  rfl

theorem execMove16_bufferBlind (dst : Rm16) (src : Src16) (n : Nat) :
    BufferBlind (execMove16 dst src n) := by
  intro s b
  refine ⟨_, execMove16_eq dst src n s, ?_⟩
  rw [execMove16_eq, value16_withBuf, writeRm16_withBuf]
  rfl

theorem execArith8_bufferBlind (f : Family) (dst : Rm8) (src : Src8) (n : Nat) :
    BufferBlind (execArith8 f dst src n) := by
  intro s b
  cases hc : s.config.arith8 with
  | refuse => exact ⟨_, execArith8_refused f dst src n s hc, execArith8_refused f dst src n _ hc⟩
  | native8 =>
    by_cases hf : f = .cmp
    · subst hf
      refine ⟨_, execArith8_cmp dst src n s hc, ?_⟩
      rw [execArith8_cmp dst src n (s.withBuf b) hc, readRm8_withBuf, value8_withBuf]
      rfl
    · cases dst with
      | mem m => exact ⟨_, execArith8_mem f m src n s hf, execArith8_mem f m src n _ hf⟩
      | reg r =>
        refine ⟨_, execArith8_reg f r src n s hc hf, ?_⟩
        rw [execArith8_reg f r src n (s.withBuf b) hc hf, value8_withBuf]
        rfl

theorem execArith16_bufferBlind (f : Family) (dst : Rm16) (src : Src16) (n : Nat) :
    BufferBlind (execArith16 f dst src n) := by
  intro s b
  by_cases hf : f = .cmp
  · subst hf
    refine ⟨_, execArith16_cmp dst src n s, ?_⟩
    rw [execArith16_cmp, readRm16_withBuf, value16_withBuf]
    rfl
  · cases dst with
    | mem m => exact ⟨_, execArith16_mem f m src n s hf, execArith16_mem f m src n _ hf⟩
    | reg r =>
      refine ⟨_, execArith16_reg f r src n s hf, ?_⟩
      rw [execArith16_reg f r src n _ hf, value16_withBuf]
      rfl

theorem execJcc_bufferBlind (c : Cond) (d : Byte) : BufferBlind (execJcc c d) := by
  intro s b
  simp only [execJcc, State.withBuf_zf, State.withBuf_sf]
  split <;> exact ⟨_, rfl, rfl⟩

/-- The one instruction outside the shared executions: its refusal turns on the parameters, which
another buffer leaves alone. -/
theorem execMovRm8Imm8_bufferBlind (dst : Rm8) (v : Byte) :
    BufferBlind (execMovRm8Imm8 dst v) := by
  intro s b
  by_cases h : (isMem dst && s.config.movbMem == .refuse) = true
  · exact ⟨_, if_pos h, if_pos h⟩
  · obtain ⟨t, ht, hb⟩ := execMove8_bufferBlind dst (.imm v) (Instr.len (.movRm8Imm8 dst v)) s b
    exact ⟨t, (if_neg h).trans ht, (if_neg h).trans hb⟩

/-- Every instruction is blind to the buffer: it is one of the shared executions, or the move of an
8-bit immediate. -/
theorem exec_bufferBlind (i : Instr) : BufferBlind (exec i) := by
  intro s b
  cases i <;> simp only [exec]
  case movRm8Imm8 => exact execMovRm8Imm8_bufferBlind _ _ s b
  case movRm8R8 | movR8Rm8 | movR8Imm8 => exact execMove8_bufferBlind _ _ _ s b
  case movRm16R16 | movR16Rm16 | movR16Imm16 | movRm16Imm16 =>
    exact execMove16_bufferBlind _ _ _ s b
  case addRm8R8 | addR8Rm8 | addAlImm8 | addRm8Imm8 | addRm8Imm8S |
      subRm8R8 | subR8Rm8 | subAlImm8 | subRm8Imm8 | subRm8Imm8S |
      cmpRm8R8 | cmpR8Rm8 | cmpAlImm8 | cmpRm8Imm8 | cmpRm8Imm8S =>
    exact execArith8_bufferBlind _ _ _ _ s b
  case addRm16R16 | addR16Rm16 | addAxImm16 | addRm16Imm16 | addRm16Imm8 |
      subRm16R16 | subR16Rm16 | subAxImm16 | subRm16Imm16 | subRm16Imm8 |
      cmpRm16R16 | cmpR16Rm16 | cmpAxImm16 | cmpRm16Imm16 | cmpRm16Imm8 =>
    exact execArith16_bufferBlind _ _ _ _ s b
  case jo | jno | jb | jnb | je | jne | js | jns | jp | jnp | jl | jnl |
      loopnz | loopz | loop | jcxz =>
    exact execJcc_bufferBlind _ _ s b

/-! ## The launch inputs along a step (10_state.md R23) -/

/-- The buffer and the parameters are unchanged. -/
def KeepsLaunchInputs (s t : State) : Prop := t.buf = s.buf ∧ t.config = s.config

theorem raise_keepsLaunchInputs {r : HaltReason} {s t : State} (h : raise r s = .next t) :
    KeepsLaunchInputs s t := by
  cases h
  exact ⟨rfl, rfl⟩

theorem exec_keepsLaunchInputs {i : Instr} {s t : State} (h : exec i s = .next t) :
    KeepsLaunchInputs s t := by
  rcases exec_cases i s with e | ⟨u, e, -, -, hbuf, hconfig, -⟩
  · exact raise_keepsLaunchInputs (e.symm.trans h)
  · cases e.symm.trans h
    exact ⟨hbuf, hconfig⟩

theorem perform_keepsLaunchInputs {out : DecOut} {s t : State} (h : perform out s = .next t) :
    KeepsLaunchInputs s t := by
  rcases perform_cases out s with ⟨r, -, e⟩ | ⟨i, -, e⟩
  · exact raise_keepsLaunchInputs (e.symm.trans h)
  · exact exec_keepsLaunchInputs (e.symm.trans h)

theorem controlStep_keepsLaunchInputs {s t : State} (h : controlStep s = .next t) :
    KeepsLaunchInputs s t := by
  unfold controlStep at h
  split at h
  · cases h
    exact ⟨rfl, rfl⟩
  · exact perform_keepsLaunchInputs h

theorem step_keepsLaunchInputs {s t : State} (h : step s = .next t) : KeepsLaunchInputs s t := by
  rcases Nat.lt_or_ge bufferLimit s.buf.length with hlong | hlegal
  · cases (step_of_illegal s hlong).symm.trans h
  · exact controlStep_keepsLaunchInputs ((step_of_legal s hlegal).symm.trans h)

/-- Settles O45: every execution is blind to the buffer, and a step keeps the launch inputs. -/
theorem instructionBufferReadOnly : Obligations.InstructionBufferReadOnly :=
  ⟨exec_bufferBlind, fun _ _ => step_keepsLaunchInputs⟩

end Sys2Proof.Machine
end

section
/-! PROOFS. The decoder form by form, 40_decoder.md: the resolver's byte count (O8) and the assembly of
the forms RM (O10), IMMREG (O11) and IMMRM (O13). The first two parts say once what the resolver reads
and what the classifier answers; each form is then assembled from them. -/

namespace Sys2Proof

/-! ## What the resolver reads (R89, R90) -/

/-- The resolver's answers, by `mod` and r/m, with the bytes each one takes. -/
theorem resolve_cases {ρ : Type} {name : BitVec 3 → ρ} {mod : BitVec 2} {rm : BitVec 3}
    {rest rest' : List Byte} {o : Rm ρ} (h : resolve name mod rm rest = some (o, rest')) :
    (mod = 3 ∧ o = .reg (name rm) ∧ rest = rest') ∨
      (mod = 0 ∧ rm ≠ 6 ∧ o = .mem (.ea ⟨(eaRow rm).1, (eaRow rm).2, .none⟩) ∧ rest = rest') ∨
      (mod = 0 ∧ rm = 6 ∧ ∃ lo hi, o = .mem (.direct (joinBytes hi lo)) ∧ rest = lo :: hi :: rest') ∨
      (mod = 1 ∧ ∃ d, o = .mem (.ea ⟨(eaRow rm).1, (eaRow rm).2, .d8 d⟩) ∧ rest = d :: rest') ∨
      (mod = 2 ∧ ∃ lo hi, o = .mem (.ea ⟨(eaRow rm).1, (eaRow rm).2, .d16 (joinBytes hi lo)⟩) ∧
        rest = lo :: hi :: rest') := by
  have hmod : mod = 3 ∨ mod = 0 ∨ mod = 1 ∨ mod = 2 := by
    clear h; revert mod; decide
  rcases hmod with rfl | rfl | rfl | rfl
  · cases h
    exact .inl ⟨rfl, rfl, rfl⟩
  · by_cases hrm : rm = 6
    · subst hrm
      match rest, h with
      | lo :: hi :: _, h => cases h; exact .inr (.inr (.inl ⟨rfl, rfl, lo, hi, rfl, rfl⟩))
    · unfold resolve at h
      rw [if_neg (by decide), if_pos rfl, if_neg hrm] at h
      cases h
      exact .inr (.inl ⟨rfl, hrm, rfl, rfl⟩)
  · match rest, h with
    | d :: _, h => cases h; exact .inr (.inr (.inr (.inl ⟨rfl, d, rfl, rfl⟩)))
  · match rest, h with
    | lo :: hi :: _, h => cases h; exact .inr (.inr (.inr (.inr ⟨rfl, lo, hi, rfl, rfl⟩)))

/-- Settles O8, case by case along the resolver's answers. -/
theorem resolverByteCount : Obligations.ResolverByteCount := by
  intro ρ name mod rm rest rest' o h
  rcases resolve_cases h with ⟨rfl, rfl, rfl⟩ | ⟨rfl, hrm, rfl, rfl⟩ | ⟨rfl, rfl, lo, hi, rfl, rfl⟩ |
    ⟨rfl, d, rfl, rfl⟩ | ⟨rfl, lo, hi, rfl, rfl⟩
  · simp [Rm.count]
  · simpa [Rm.count, MemRef.dispLen] using hrm
  · simp [Rm.count, MemRef.dispLen]
  · simp [Rm.count, MemRef.dispLen]
  · simp [Rm.count, MemRef.dispLen]

/-! ## What the classifier answers (R77, R94) -/

/-- Two rows test a common bit of the first byte for different values. -/
def OpcodeRow.ClashFirst (r q : OpcodeRow) : Prop :=
  (r.mask &&& q.mask) &&& (r.pattern ^^^ q.pattern) ≠ 0

/-- Two rows test `b1[5:3]` for different values. -/
def OpcodeRow.ClashSecond (r q : OpcodeRow) : Prop :=
  r.sub.isSome = true ∧ q.sub.isSome = true ∧ r.sub ≠ q.sub

theorem OpcodeRow.fits_iff (r : OpcodeRow) (b0 : Byte) :
    r.fits b0 = true ↔ b0 &&& r.mask = r.pattern := by
  simp [OpcodeRow.fits]

theorem OpcodeRow.hits_iff (r : OpcodeRow) (b0 : Byte) (b1 : Option Byte) :
    r.hits b0 b1 = true ↔ r.fits b0 = true ∧ (r.sub.isSome = true → b1.map regField = r.sub) := by
  obtain ⟨mask, pattern, sub, op⟩ := r
  cases sub <;> cases b1 <;> simp [OpcodeRow.hits]

theorem OpcodeRow.not_fits_of_clashFirst {r q : OpcodeRow} (h : r.ClashFirst q) {b0 : Byte}
    (hr : r.fits b0 = true) : ¬ q.fits b0 = true := by
  rw [fits_iff] at hr ⊢
  intro hq
  apply h
  rw [← hr, ← hq]
  ext i hi
  grind

theorem OpcodeRow.clash_symm : Std.Symm fun r q : OpcodeRow => r.ClashFirst q ∨ r.ClashSecond q where
  symm r q := by
    rintro (h | ⟨hr, hq, hne⟩)
    · left
      rwa [ClashFirst, BitVec.and_comm q.mask, BitVec.xor_comm q.pattern]
    · exact .inr ⟨hq, hr, hne.symm⟩

theorem opcodeTable_pairwise_clash :
    opcodeTable.Pairwise fun r q => r.ClashFirst q ∨ r.ClashSecond q := by
  unfold OpcodeRow.ClashFirst OpcodeRow.ClashSecond
  decide

/-- Different rows of the classifier's table exclude each other. -/
theorem clash_of_ne {r q : OpcodeRow} (hr : r ∈ opcodeTable) (hq : q ∈ opcodeTable) (hne : r ≠ q) :
    r.ClashFirst q ∨ r.ClashSecond q :=
  haveI := OpcodeRow.clash_symm
  opcodeTable_pairwise_clash.forall hr hq hne

theorem hits_unique {r q : OpcodeRow} (hr : r ∈ opcodeTable) (hq : q ∈ opcodeTable) {b0 : Byte}
    {b1 : Option Byte} (h : r.hits b0 b1 = true) (h' : q.hits b0 b1 = true) : r = q := by
  by_contra hne
  obtain ⟨hrf, hrs⟩ := (r.hits_iff b0 b1).mp h
  obtain ⟨hqf, hqs⟩ := (q.hits_iff b0 b1).mp h'
  rcases clash_of_ne hr hq hne with hc | ⟨hrsome, hqsome, hsub⟩
  · exact OpcodeRow.not_fits_of_clashFirst hc hrf hqf
  · exact hsub ((hrs hrsome).symm.trans (hqs hqsome))

theorem classifyIn_of_hits {r : OpcodeRow} (hr : r ∈ opcodeTable) {b0 : Byte} {b1 : Option Byte}
    (h : r.hits b0 b1 = true) : classifyIn opcodeTable b0 b1 = r.opcode := by
  obtain ⟨q, hfind⟩ : ∃ q, opcodeTable.find? (·.hits b0 b1) = some q :=
    Option.isSome_iff_exists.mp (List.find?_isSome.mpr ⟨r, hr, h⟩)
  have hq := List.find?_some hfind
  obtain rfl := hits_unique hr (List.mem_of_find?_eq_some hfind) h hq
  rw [classifyIn, hfind]

/-- A first byte that fits a row without a test of `b1[5:3]` needs no second byte. -/
theorem needsSecond_eq_false {r : OpcodeRow} (hr : r ∈ opcodeTable) (hsub : r.sub = none) {b0 : Byte}
    (h : r.fits b0 = true) : needsSecond b0 = false := by
  simp only [needsSecond, List.any_eq_false, Bool.and_eq_true, not_and]
  intro q hq hqsome
  have hne : r ≠ q := by rintro rfl; simp [hsub] at hqsome
  rcases clash_of_ne hr hq hne with hc | ⟨hrsome, -, -⟩
  · exact OpcodeRow.not_fits_of_clashFirst hc h
  · simp [hsub] at hrsome

/-- A row that matches decides what the classifier answers. -/
theorem classify_of_hits {r : OpcodeRow} (hr : r ∈ opcodeTable) {b0 : Byte} {b1 : Option Byte}
    (h : r.hits b0 b1 = true) : classify b0 b1 = some r.opcode := by
  have hneed : (needsSecond b0 && b1.isNone) = false := by
    obtain ⟨hfits, hsecond⟩ := (r.hits_iff b0 b1).mp h
    rcases hsub : r.sub with _ | f
    · simp [needsSecond_eq_false hr hsub hfits]
    · cases b1 with
      | none => simp [hsub] at hsecond
      | some b => simp
  rw [classify, hneed, classifyIn_of_hits hr h]
  rfl

/-- A row that matches decides the form that is assembled. -/
theorem decode_of_hits {r : OpcodeRow} (hr : r ∈ opcodeTable) {b0 : Byte} {rest : List Byte}
    (h : r.hits b0 rest.head? = true) : decode (b0 :: rest) = assemble r.opcode b0 rest := by
  rw [decode, classify_of_hits hr h]

/-- The first byte alone decides the form where its row does not test `b1[5:3]`. -/
theorem decode_of_first {mask pattern : Byte} {op : Opcode}
    (hr : ⟨mask, pattern, none, op⟩ ∈ opcodeTable) {b0 : Byte} (h : b0 &&& mask = pattern)
    (rest : List Byte) : decode (b0 :: rest) = assemble op b0 rest :=
  decode_of_hits hr ((OpcodeRow.hits_iff _ _ _).mpr ⟨(OpcodeRow.fits_iff _ _).mpr h, by simp⟩)

/-- The first byte and `b1[5:3]` decide the form where the row tests both. -/
theorem decode_of_second {mask pattern : Byte} {f : BitVec 3} {op : Opcode}
    (hr : ⟨mask, pattern, some f, op⟩ ∈ opcodeTable) {b0 b1 : Byte} (h : b0 &&& mask = pattern)
    (h1 : regField b1 = f) (rest : List Byte) :
    decode (b0 :: b1 :: rest) = assemble op b0 (b1 :: rest) :=
  decode_of_hits hr ((OpcodeRow.hits_iff _ _ _).mpr ⟨(OpcodeRow.fits_iff _ _).mpr h, by simp [h1]⟩)

/-! ## The bits of the first byte (R61 to R67) -/

theorem field_one (b : Byte) (lo : Nat) : (field b lo 1 == 1#1) = b.getLsbD lo := by
  rw [Bool.eq_iff_iff, beq_iff_eq, BitVec.eq_of_getLsbD_eq_iff]
  simp [field]

theorem dBit_eq (b0 : Byte) : dBit b0 = b0.getLsbD 1 := field_one b0 1

theorem wBit_eq (b0 : Byte) : wBit b0 = b0.getLsbD 0 := field_one b0 0

theorem sBit_eq (b0 : Byte) : sBit b0 = b0.getLsbD 1 := field_one b0 1

theorem immRegW_eq (b0 : Byte) : immRegW b0 = b0.getLsbD 3 := field_one b0 3

/-! ## Form RM (R97) -/

/-- R97's record at width 8: `d` says which of the two operands is the destination. -/
def rmRecord8 (op : Opcode) (d : Bool) (o : Rm8) (r : Reg8) : Record :=
  ⟨op, some .w8, some (if d then .reg (.r8 r) else Rm8.operand o),
    some (if d then Rm8.operand o else .reg (.r8 r)), o.count⟩

/-- R97's record at width 16. -/
def rmRecord16 (op : Opcode) (d : Bool) (o : Rm16) (r : Reg16) : Record :=
  ⟨op, some .w16, some (if d then .reg (.r16 r) else Rm16.operand o),
    some (if d then Rm16.operand o else .reg (.r16 r)), o.count⟩

/-- The opcode is assembled by form RM from the two makers, and they give the records of R97. -/
structure IsRmForm (op : Opcode) (mk8 : Bool → Rm8 → Reg8 → Instr)
    (mk16 : Bool → Rm16 → Reg16 → Instr) : Prop where
  assemble_eq (b0 : Byte) (rest : List Byte) :
    assemble op b0 rest = assembled (assembleRm mk8 mk16 b0 rest)
  record8 (d : Bool) (o : Rm8) (r : Reg8) : (mk8 d o r).record = rmRecord8 op d o r
  record16 (d : Bool) (o : Rm16) (r : Reg16) : (mk16 d o r).record = rmRecord16 op d o r

theorem isRmForm_move : IsRmForm (.move .rm) movRm8 movRm16 where
  assemble_eq _ _ := rfl
  record8 d _ _ := by cases d <;> rfl
  record16 d _ _ := by cases d <;> rfl

theorem isRmForm_arithmetic (f : Family) :
    IsRmForm (.arithmetic f .rm) (arithRm8 f) (arithRm16 f) where
  assemble_eq _ _ := rfl
  record8 d _ _ := by cases f <;> cases d <;> rfl
  record16 d _ _ := by cases f <;> cases d <;> rfl

theorem assembleRm_byte (mk8 : Bool → Rm8 → Reg8 → Instr) (mk16 : Bool → Rm16 → Reg16 → Instr)
    {b0 : Byte} (hw : b0.getLsbD 0 = false) (b1 : Byte) (rest : List Byte) :
    assembleRm mk8 mk16 b0 (b1 :: rest) =
      (resolve reg8Of (modField b1) (rmField b1) rest).map
        fun p => mk8 (b0.getLsbD 1) p.1 (reg8Of (regField b1)) := by
  rw [assembleRm, wBit_eq, dBit_eq, hw]
  rfl

theorem assembleRm_word (mk8 : Bool → Rm8 → Reg8 → Instr) (mk16 : Bool → Rm16 → Reg16 → Instr)
    {b0 : Byte} (hw : b0.getLsbD 0 = true) (b1 : Byte) (rest : List Byte) :
    assembleRm mk8 mk16 b0 (b1 :: rest) =
      (resolve reg16Of (modField b1) (rmField b1) rest).map
        fun p => mk16 (b0.getLsbD 1) p.1 (reg16Of (regField b1)) := by
  rw [assembleRm, wBit_eq, dBit_eq, hw]
  rfl

/-- The four opcodes of form RM, each with its row of the classifier's table. -/
theorem rmForm_rows : ∀ p ∈ [((0x88 : Byte), Opcode.move .rm), (0x00, .arithmetic .add .rm),
      (0x28, .arithmetic .sub .rm), (0x38, .arithmetic .cmp .rm)],
    ⟨0xFC, p.1, none, p.2⟩ ∈ opcodeTable ∧ ∃ mk8 mk16, IsRmForm p.2 mk8 mk16 := by
  simp only [List.forall_mem_cons, List.not_mem_nil, false_implies, implies_true, and_true]
  exact ⟨⟨by decide, _, _, isRmForm_move⟩, ⟨by decide, _, _, isRmForm_arithmetic .add⟩,
    ⟨by decide, _, _, isRmForm_arithmetic .sub⟩, ⟨by decide, _, _, isRmForm_arithmetic .cmp⟩⟩

/-- Settles O10: the row gives the form, `w` the register table, and the resolver's answer the rest. -/
theorem rmFormAssembly : Obligations.RmFormAssembly := by
  intro p hp b0 hb0
  obtain ⟨hrow, mk8, mk16, hform⟩ := rmForm_rows p hp
  have hdecode (rest : List Byte) : decode (b0 :: rest) = assembled (assembleRm mk8 mk16 b0 rest) :=
    (decode_of_first hrow hb0 rest).trans (hform.assemble_eq b0 rest)
  refine ⟨hdecode [], fun b1 rest => ⟨fun hw => ?word, fun hw => ?byte⟩⟩
  case word =>
    rw [hdecode, assembleRm_word mk8 mk16 hw]
    exact ⟨fun h => by rw [h]; rfl,
      fun o rest' h => ⟨_, by rw [h]; rfl, hform.record16 _ o (reg16Of (regField b1))⟩⟩
  case byte =>
    rw [hdecode, assembleRm_byte mk8 mk16 hw]
    exact ⟨fun h => by rw [h]; rfl,
      fun o rest' h => ⟨_, by rw [h]; rfl, hform.record8 _ o (reg8Of (regField b1))⟩⟩

/-! ## Form IMMREG (R98) -/

theorem decode_immReg {b0 : Byte} (h : b0 &&& 0xF0 = 0xB0) (rest : List Byte) :
    decode (b0 :: rest) = assembled (assembleImmReg b0 rest) :=
  decode_of_first (op := .move .immReg) (by decide) h rest

theorem assembleImmReg_byte {b0 : Byte} (hw : b0.getLsbD 3 = false) (rest : List Byte) :
    assembleImmReg b0 rest = (takeImm8 rest).map (.movR8Imm8 (reg8Of (immRegReg b0))) := by
  rw [assembleImmReg, immRegW_eq, hw]
  rfl

theorem assembleImmReg_word {b0 : Byte} (hw : b0.getLsbD 3 = true) (rest : List Byte) :
    assembleImmReg b0 rest = (takeImm16 rest).map (.movR16Imm16 (reg16Of (immRegReg b0))) := by
  rw [assembleImmReg, immRegW_eq, hw]
  rfl

/-- Settles O11: at either width, by how many immediate bytes are there. -/
theorem immRegFormAssembly : Obligations.ImmRegFormAssembly := by
  intro b0 hb0
  refine ⟨fun hw => ?byte, fun hw => ?word⟩
  case byte =>
    have hdecode (rest : List Byte) := (decode_immReg hb0 rest).trans
      (congrArg assembled (assembleImmReg_byte hw rest))
    exact ⟨hdecode [], fun b1 rest => ⟨_, hdecode (b1 :: rest), rfl⟩⟩
  case word =>
    have hdecode (rest : List Byte) := (decode_immReg hb0 rest).trans
      (congrArg assembled (assembleImmReg_word hw rest))
    exact ⟨hdecode [], fun b1 => hdecode [b1], fun b1 b2 rest => ⟨_, hdecode (b1 :: b2 :: rest), rfl⟩⟩

/-! ## Form IMMRM (R100) -/

theorem arithImm8_record (f : Family) (s : Bool) (o : Rm8) (v : Byte) :
    (arithImm8 f s o v).record =
      ⟨.arithmetic f .immRm, some .w8, some (Rm8.operand o), some (.imm8 v), o.count + 1⟩ := by
  cases f <;> cases s <;> rfl

theorem arithImmSext_record (f : Family) (o : Rm16) (v : Byte) :
    (arithImmSext f o v).record =
      ⟨.arithmetic f .immRm, some .w16, some (Rm16.operand o), some (.imm8 v), o.count + 1⟩ := by
  cases f <;> rfl

theorem arithImm16_record (f : Family) (o : Rm16) (v : Word) :
    (arithImm16 f o v).record =
      ⟨.arithmetic f .immRm, some .w16, some (Rm16.operand o), some (.imm16 v), o.count + 2⟩ := by
  cases f <;> rfl

theorem assembleImmRm_byte (f : Family) {b0 : Byte} (hw : b0.getLsbD 0 = false) (b1 : Byte)
    (rest : List Byte) : assembleImmRm f b0 (b1 :: rest) =
      (resolve reg8Of (modField b1) (rmField b1) rest).bind
        fun p => (takeImm8 p.2).map (arithImm8 f (sBit b0) p.1) := by
  simp only [assembleImmRm, wBit_eq, hw]
  cases resolve reg8Of (modField b1) (rmField b1) rest <;> rfl

theorem assembleImmRm_word (f : Family) {b0 : Byte} (hw : b0.getLsbD 0 = true) (b1 : Byte)
    (rest : List Byte) : assembleImmRm f b0 (b1 :: rest) =
      (resolve reg16Of (modField b1) (rmField b1) rest).bind
        fun p => if b0.getLsbD 1 then (takeImm8 p.2).map (arithImmSext f p.1)
          else (takeImm16 p.2).map (arithImm16 f p.1) := by
  simp only [assembleImmRm, wBit_eq, sBit_eq, hw]
  cases resolve reg16Of (modField b1) (rmField b1) rest <;> rfl

theorem immRm_rows : ∀ p ∈ [((0 : BitVec 3), Family.add), (5, .sub), (7, .cmp)],
    ⟨0xFC, 0x80, some p.1, .arithmetic p.2 .immRm⟩ ∈ opcodeTable := by decide

/-- Settles O13: the row gives the family, the resolver's answer the operand, and `s` and `w` the
immediate. -/
theorem immRmFormAssembly : Obligations.ImmRmFormAssembly := by
  intro p hp b0 b1 rest hb0 hb1
  have hdecode : decode (b0 :: b1 :: rest) = assembled (assembleImmRm p.2 b0 (b1 :: rest)) :=
    decode_of_second (immRm_rows p hp) hb0 hb1 rest
  refine ⟨fun hw => ?word, fun hw => ?byte⟩
  case word =>
    rw [hdecode, assembleImmRm_word p.2 hw]
    refine ⟨fun h => by rw [h]; rfl, fun o rest' h => ?_⟩
    rw [h, Option.bind_some]
    refine ⟨?_, fun hs => ?_, fun hs => ?_⟩
    · rintro rfl
      cases b0.getLsbD 1 <;> rfl
    · rintro v tail rfl
      exact ⟨_, by rw [hs]; rfl, arithImmSext_record p.2 o v⟩
    · rw [hs]
      refine ⟨?_, ?_⟩
      · rintro lo rfl
        rfl
      · rintro lo hi tail rfl
        exact ⟨_, rfl, arithImm16_record p.2 o (hi ++ lo)⟩
  case byte =>
    rw [hdecode, assembleImmRm_byte p.2 hw]
    refine ⟨fun h => by rw [h]; rfl, fun o rest' h => ?_⟩
    rw [h, Option.bind_some]
    refine ⟨?_, ?_⟩
    · rintro rfl
      rfl
    · rintro v tail rfl
      exact ⟨_, rfl, arithImm8_record p.2 (sBit b0) o v⟩

end Sys2Proof
end

section
/-! PROOFS. Operand values (O19) and the immediate-to-register Moves as whole steps (O24), 41_move.md.
A step is taken apart once, into what the decoder reads at `ip` and what the instruction does. -/

namespace Sys2Proof.Machine

open Sys2Proof.Claims

/-! ## Operand values (R108) -/

theorem toInt_sext16 (v : Byte) : (sext16 v).toInt = v.toInt :=
  BitVec.toInt_signExtend_of_le (by decide)

/-- Settles O19: every kind of operand is a defining case of `Val`, and sign extension keeps the
integer. -/
theorem operandValues : Obligations.OperandValues := fun _ =>
  ⟨fun _ => rfl, fun _ => rfl, fun _ => rfl, fun _ => rfl, fun _ => rfl, toInt_sext16, fun _ => rfl⟩

/-! ## What the decoder reads (R98) -/

/-- The fields of the first byte of MOV r8, imm8. -/
theorem immRegByte_fields : ∀ f : BitVec 3, (0xB0 ||| f.zeroExtend 8 : Byte) &&& 0xF0 = 0xB0 ∧
    (0xB0 ||| f.zeroExtend 8 : Byte).getLsbD 3 = false ∧
    immRegReg (0xB0 ||| f.zeroExtend 8) = f := by decide

/-- The fields of the first byte of MOV r16, imm16. -/
theorem immRegWord_fields : ∀ f : BitVec 3, (0xB8 ||| f.zeroExtend 8 : Byte) &&& 0xF0 = 0xB0 ∧
    (0xB8 ||| f.zeroExtend 8 : Byte).getLsbD 3 = true ∧
    immRegReg (0xB8 ||| f.zeroExtend 8) = f := by decide

theorem decode_immRegByte (r : Reg8) (rest : List Byte) :
    decode ((0xB0 ||| (reg8Num r).zeroExtend 8) :: rest) =
      assembled ((takeImm8 rest).map (.movR8Imm8 r)) := by
  obtain ⟨hform, hw, hreg⟩ := immRegByte_fields (reg8Num r)
  rw [decode_immReg hform, assembleImmReg_byte hw, hreg, reg8Of_reg8Num]

theorem decode_immRegWord (r : Reg16) (rest : List Byte) :
    decode ((0xB8 ||| (reg16Num r).zeroExtend 8) :: rest) =
      assembled ((takeImm16 rest).map (.movR16Imm16 r)) := by
  obtain ⟨hform, hw, hreg⟩ := immRegWord_fields (reg16Num r)
  rw [decode_immReg hform, assembleImmReg_word hw, hreg, reg16Of_reg16Num]

theorem takeImm16_of_short {bytes : List Byte} (h : bytes.length < 2) : takeImm16 bytes = none := by
  match bytes, h with
  | [], _ => rfl
  | [_], _ => rfl

/-! ## What a step does with it (R115, R116) -/

theorem exec_movR8Imm8_next (r : Reg8) (v : Byte) (s : State) : exec (.movR8Imm8 r v) s =
    .next { s with regs := s.regs.set8 r v, ip := s.ip + 2 } :=
  (exec_movR8Imm8 r v s).trans (execMove8_eq (.reg r) (.imm v) 2 s)

theorem exec_movR16Imm16_next (r : Reg16) (v : Word) (s : State) : exec (.movR16Imm16 r v) s =
    .next { s with regs := s.regs.set16 r v, ip := s.ip + 3 } :=
  (exec_movR16Imm16 r v s).trans (execMove16_eq (.reg r) (.imm v) 3 s)

section
variable {s : State} (hlegal : Legal s) (hrun : Running s)
include hlegal hrun

/-- A step of a running block performs what the decoder reads in the bytes at `ip`. -/
theorem step_of_bytes {bytes : List Byte} (h : s.buf.drop s.ip.toNat = bytes) :
    step s = perform (decode bytes) s := by
  rw [step_of_legal s hlegal, controlStep_running s hrun, State.fetch, decodeAt, h]

theorem step_immRegByte {r : Reg8} {v : Byte} {rest : List Byte}
    (h : s.buf.drop s.ip.toNat = (0xB0 ||| (reg8Num r).zeroExtend 8) :: v :: rest) :
    step s = .next { s with regs := s.regs.set8 r v, ip := s.ip + 2 } := by
  rw [step_of_bytes hlegal hrun h, decode_immRegByte]
  exact exec_movR8Imm8_next r v s

theorem step_immRegByte_truncated {r : Reg8}
    (h : s.buf.drop s.ip.toNat = [0xB0 ||| (reg8Num r).zeroExtend 8]) :
    step s = .next { s with runState := .halted .truncatedInstruction } := by
  rw [step_of_bytes hlegal hrun h, decode_immRegByte]
  rfl

theorem step_immRegWord {r : Reg16} {lo hi : Byte} {rest : List Byte}
    (h : s.buf.drop s.ip.toNat = (0xB8 ||| (reg16Num r).zeroExtend 8) :: lo :: hi :: rest) :
    step s = .next { s with regs := s.regs.set16 r (hi ++ lo), ip := s.ip + 3 } := by
  rw [step_of_bytes hlegal hrun h, decode_immRegWord]
  exact exec_movR16Imm16_next r (hi ++ lo) s

theorem step_immRegWord_truncated {r : Reg16} {bytes : List Byte} (hshort : bytes.length < 2)
    (h : s.buf.drop s.ip.toNat = (0xB8 ||| (reg16Num r).zeroExtend 8) :: bytes) :
    step s = .next { s with runState := .halted .truncatedInstruction } := by
  rw [step_of_bytes hlegal hrun h, decode_immRegWord, takeImm16_of_short hshort]
  rfl

end

theorem RegFile.get8_set8 (f : RegFile) (r q : Reg8) (v : Byte) :
    (f.set8 r v).get8 q = if q = r then v else f.get8 q := by
  split
  case isTrue h => rw [h, f.get8_set8_same]
  case isFalse h => exact f.get8_set8_other r q v h

/-- Settles O24: one step lemma for each clause; the source's example is the word clause at reset. -/
theorem immediateToRegisterSteps : Obligations.ImmediateToRegisterSteps := by
  refine ⟨fun s r hlegal hrun => ⟨fun v rest => step_immRegByte hlegal hrun,
      step_immRegByte_truncated hlegal hrun⟩,
    fun s r hlegal hrun => ⟨fun lo hi rest => step_immRegWord hlegal hrun,
      fun bytes => step_immRegWord_truncated hlegal hrun⟩,
    RegFile.get8_set8, fun c => ?_⟩
  have hlegal : Legal (State.launch c [0xB8, 0x05, 0x00]) := show 3 ≤ bufferLimit by decide
  exact ⟨_, step_immRegWord (r := .ax) hlegal rfl rfl, rfl, rfl, rfl⟩

end Sys2Proof.Machine
end

section
/-! PROOFS. Control transfer, 43_jump.md: the jumps the two flags cannot decide (O35), and what any
instruction may change in `ip`, the registers and memory (O44). -/

namespace Sys2Proof.Machine

open Sys2Proof.Claims

/-! ## The sixteen jumps by their condition (R156, R157) -/

theorem exec_jccInstr (c : Cond) (d : Byte) (s : State) :
    exec (jccInstr c d) s = execJcc c d s := by cases c <;> rfl

theorem len_jccInstr (c : Cond) (d : Byte) : (jccInstr c d).len = 2 := by cases c <;> rfl

theorem exists_jccByte (c : Cond) : ∃ b, (b, c) ∈ jccTable := by cases c <;> simp [jccTable]

/-- Each row of the jump table decodes with the byte after it as its displacement. -/
theorem decode_jcc {b : Byte} {c : Cond} (h : (b, c) ∈ jccTable) (d : Byte) (rest : List Byte) :
    decode (b :: d :: rest) = .ok (.known (jccInstr c d)) := by
  have hrow : ⟨0xFF, b, none, .conditionalJump c⟩ ∈ opcodeTable :=
    List.mem_append_right _ (List.mem_map.mpr ⟨(b, c), h, rfl⟩)
  exact decode_of_first hrow (BitVec.and_allOnes) (d :: rest)

/-- The conditions ZF and SF decide, and the value each of them is taken on. -/
theorem condition_eq_some_true_iff (c : Cond) (z g : Bool) : condition c z g = some true ↔
    (c = .e ∧ z = true) ∨ (c = .ne ∧ z = false) ∨ (c = .s ∧ g = true) ∨ (c = .ns ∧ g = false) := by
  cases c <;> simp [condition]

theorem condition_eq_none_iff (c : Cond) (z g : Bool) :
    condition c z g = none ↔ c ≠ .e ∧ c ≠ .ne ∧ c ≠ .s ∧ c ≠ .ns := by
  cases c <;> simp [condition]

/-- A jump on a condition the flags cannot decide halts with Unsupported-Operation. -/
theorem exec_jccInstr_unevaluable {c : Cond} (hc : c ≠ .e ∧ c ≠ .ne ∧ c ≠ .s ∧ c ≠ .ns) (d : Byte)
    (s : State) : exec (jccInstr c d) s = .next (unsupported s) := by
  rw [exec_jccInstr, execJcc, (condition_eq_none_iff c s.zf s.sf).mpr hc]
  rfl

/-- The conditions of the twelve jumps that cannot be evaluated. -/
def unevaluableConds : List Cond := [.o, .no, .b, .nb, .p, .np, .l, .nl, .loopnz, .loopz, .loop, .cxz]

theorem mem_unevaluableConds {c : Cond} (h : c ∈ unevaluableConds) :
    c ≠ .e ∧ c ≠ .ne ∧ c ≠ .s ∧ c ≠ .ns := by
  revert c
  decide

/-- Settles O35: the twelve jumps are those of `unevaluableConds`, each with its row of the decoder's
jump table. -/
theorem unevaluableJumpsHalt : Obligations.UnevaluableJumpsHalt := by
  refine ⟨fun s d => ?halts, fun d i hi => ?decodes, fun d => ?evaluable, fun c z g =>
    ⟨condition_eq_some_true_iff c z g, condition_eq_none_iff c z g⟩⟩
  case halts =>
    have h : ∀ c ∈ unevaluableConds, exec (jccInstr c d) s = .next (unsupported s) :=
      fun c hc => exec_jccInstr_unevaluable (mem_unevaluableConds hc) d s
    simpa only [unevaluableConds, jccInstr, List.forall_mem_cons, List.not_mem_nil, false_implies,
      implies_true, and_true] using h
  case decodes =>
    obtain ⟨c, -, rfl⟩ : ∃ c ∈ unevaluableConds, jccInstr c d = i := List.mem_map.mp hi
    obtain ⟨b0, hb0⟩ := exists_jccByte c
    exact ⟨len_jccInstr c d, b0, decode_jcc hb0 d⟩
  case evaluable =>
    exact ⟨decode_jcc (c := .e) (by decide) d [], decode_jcc (c := .ne) (by decide) d [],
      decode_jcc (c := .s) (by decide) d [], decode_jcc (c := .ns) (by decide) d []⟩

/-! ## Changes confined to the destination (R159) -/

/-- The operand is the register, or a half of it. -/
def OperandNames (o : Option Operand) (q : Reg16) : Prop :=
  o = some (.reg (.r16 q)) ∨ ∃ r, o = some (.reg (.r8 r)) ∧ cellOf r = q

theorem names_iff (i : Instr) (q : Reg16) : Names i q ↔ OperandNames i.record.dst q := Iff.rfl

/-- No register but the destination, and no memory unless it is the destination, is changed. -/
def ConfinedTo (dst : Option Operand) (s t : State) : Prop :=
  (∀ q, ¬ OperandNames dst q → t.regs.get16 q = s.regs.get16 q) ∧
    (¬ MemoryOperand dst → t.mem = s.mem)

theorem ConfinedTo.refl (dst : Option Operand) (s : State) : ConfinedTo dst s s :=
  ⟨fun _ _ => rfl, fun _ => rfl⟩

/-- Only the registers and memory of the later state matter. -/
theorem ConfinedTo.congr {dst : Option Operand} {s t u : State} (h : ConfinedTo dst s t)
    (hregs : u.regs = t.regs) (hmem : u.mem = t.mem) : ConfinedTo dst s u := by
  rwa [ConfinedTo, hregs, hmem]

theorem memoryOperand_operand (m : MemRef) : MemoryOperand (some m.operand) := by
  cases m with
  | ea e => exact .inl ⟨e, rfl⟩
  | direct a => exact .inr ⟨a, rfl⟩

theorem writeRm8_confinedTo (s : State) (o : Rm8) (v : Byte) :
    ConfinedTo (some (Rm8.operand o)) s (writeRm8 s o v) := by
  cases o with
  | reg r =>
    refine ⟨fun q hq => RegFile.get16_set8_other s.regs r q v ?_, fun _ => rfl⟩
    exact fun hcell => hq (.inr ⟨r, rfl, hcell.symm⟩)
  | mem m => exact ⟨fun _ _ => rfl, fun h => absurd (memoryOperand_operand m) h⟩

theorem writeRm16_confinedTo (s : State) (o : Rm16) (v : Word) :
    ConfinedTo (some (Rm16.operand o)) s (writeRm16 s o v) := by
  cases o with
  | reg r =>
    refine ⟨fun q hq => (RegFile.get16_set16 s.regs r q v).trans (if_neg ?_), fun _ => rfl⟩
    exact fun hq' => hq (.inl (by rw [hq']; rfl))
  | mem m => exact ⟨fun _ _ => rfl, fun h => absurd (memoryOperand_operand m) h⟩

/-! ## Executions without a control transfer -/

/-- From `s` to `t`, `ip` advances by `n` or the run halts unchanged, within the destination. -/
structure StraightLine (dst : Option Operand) (n : Nat) (s t : State) : Prop where
  ip : t.ip = s.ip + BitVec.ofNat 16 n ∨ t = unsupported s
  confined : ConfinedTo dst s t

theorem straightLine_of_raise {dst : Option Operand} {n : Nat} {s t : State}
    (h : raise .unsupportedOperation s = .next t) : StraightLine dst n s t := by
  cases h
  exact ⟨.inr rfl, (ConfinedTo.refl dst s).congr rfl rfl⟩

theorem execMove8_straightLine {dst : Rm8} {src : Src8} {n : Nat} {s t : State}
    (h : execMove8 dst src n s = .next t) : StraightLine (some (Rm8.operand dst)) n s t := by
  cases (execMove8_eq dst src n s).symm.trans h
  obtain ⟨hip, -⟩ := writeRm8_keeps s dst (value8 s src)
  exact ⟨.inl (congrArg (· + BitVec.ofNat 16 n) hip), (writeRm8_confinedTo s dst _).congr rfl rfl⟩

theorem execMove16_straightLine {dst : Rm16} {src : Src16} {n : Nat} {s t : State}
    (h : execMove16 dst src n s = .next t) : StraightLine (some (Rm16.operand dst)) n s t := by
  cases (execMove16_eq dst src n s).symm.trans h
  obtain ⟨hip, -⟩ := writeRm16_keeps s dst (value16 s src)
  exact ⟨.inl (congrArg (· + BitVec.ofNat 16 n) hip), (writeRm16_confinedTo s dst _).congr rfl rfl⟩

theorem execArith8_straightLine {f : Family} {dst : Rm8} {src : Src8} {n : Nat} {s t : State}
    (h : execArith8 f dst src n s = .next t) : StraightLine (some (Rm8.operand dst)) n s t := by
  rcases execArith8_cases f dst src n s with e | ⟨z, g, ⟨-, e⟩ | ⟨r, v, rfl, e⟩⟩
  · exact straightLine_of_raise (e.symm.trans h)
  · cases e.symm.trans h
    exact ⟨.inl rfl, (ConfinedTo.refl _ s).congr rfl rfl⟩
  · cases e.symm.trans h
    exact ⟨.inl rfl, (writeRm8_confinedTo s (.reg r) v).congr rfl rfl⟩

theorem execArith16_straightLine {f : Family} {dst : Rm16} {src : Src16} {n : Nat} {s t : State}
    (h : execArith16 f dst src n s = .next t) : StraightLine (some (Rm16.operand dst)) n s t := by
  rcases execArith16_cases f dst src n s with e | ⟨z, g, ⟨-, e⟩ | ⟨r, v, rfl, e⟩⟩
  · exact straightLine_of_raise (e.symm.trans h)
  · cases e.symm.trans h
    exact ⟨.inl rfl, (ConfinedTo.refl _ s).congr rfl rfl⟩
  · cases e.symm.trans h
    exact ⟨.inl rfl, (writeRm16_confinedTo s (.reg r) v).congr rfl rfl⟩

theorem execJcc_confinedTo {c : Cond} {d : Byte} {dst : Option Operand} {s t : State}
    (h : execJcc c d s = .next t) : ConfinedTo dst s t := by
  rcases execJcc_cases c d s with ⟨-, e⟩ | ⟨-, e⟩ | ⟨-, e⟩ <;> cases e.symm.trans h <;>
    exact (ConfinedTo.refl dst s).congr rfl rfl

/-- Only a conditional jump transfers control, and it changes no register and no memory. -/
theorem exec_straightLine_or_jump {i : Instr} {s t : State} (h : exec i s = .next t) :
    StraightLine i.record.dst i.len s t ∨ (IsJump i ∧ ConfinedTo i.record.dst s t) := by
  rcases exec_shape i s with ⟨_, _, _, hr, e⟩ | ⟨_, _, _, hr, e⟩ | ⟨_, _, _, _, hr, e⟩ |
    ⟨_, _, _, _, hr, e⟩ | ⟨c, d, hr, e⟩ | ⟨_, _, -, -, e⟩ <;> replace h := e.symm.trans h
  · rw [hr]; exact .inl (execMove8_straightLine h)
  · rw [hr]; exact .inl (execMove16_straightLine h)
  · rw [hr]; exact .inl (execArith8_straightLine h)
  · rw [hr]; exact .inl (execArith16_straightLine h)
  · exact .inr ⟨⟨c, by rw [hr]; rfl⟩, execJcc_confinedTo h⟩
  · exact .inl (straightLine_of_raise h)

/-- Settles O44: an execution is straight-line, or a jump that changes neither registers nor memory. -/
theorem noOtherControlTransfer : Obligations.NoOtherControlTransfer := by
  intro i s t h
  rcases exec_straightLine_or_jump h with ⟨hip, hregs, hmem⟩ | ⟨hjump, hregs, hmem⟩
  · exact ⟨fun _ => hip, fun q hq => hregs q (mt (names_iff i q).mpr hq), hmem⟩
  · exact ⟨fun hnot => absurd hjump hnot, fun q hq => hregs q (mt (names_iff i q).mpr hq), hmem⟩

end Sys2Proof.Machine
end

section
/-! PROOFS. Halting, 60_exceptions.md: a halt changes the run state only (O49), and EndOfStream is the
halt past the end of the buffer (O50). Both read off one inversion: the decoder's output fixes the only
reason a step can halt for, and the halted state. -/

namespace Sys2Proof

/-! ## The decoder's `End` (40_decoder.md R93) -/

theorem assembled_ne_endOfBuffer (o : Option Instr) : assembled o ≠ .endOfBuffer := by
  cases o <;> nofun

theorem assemble_ne_endOfBuffer (op : Opcode) (b0 : Byte) (rest : List Byte) :
    assemble op b0 rest ≠ .endOfBuffer := by
  cases op with
  | move v => cases v <;> exact assembled_ne_endOfBuffer _
  | arithmetic f v => cases v <;> exact assembled_ne_endOfBuffer _
  | conditionalJump c => exact assembled_ne_endOfBuffer _
  | unrecognized => nofun

theorem decode_eq_endOfBuffer_iff (bytes : List Byte) : decode bytes = .endOfBuffer ↔ bytes = [] := by
  cases bytes with
  | nil => exact iff_of_true rfl rfl
  | cons b0 rest =>
    refine iff_of_false ?_ (List.cons_ne_nil b0 rest)
    cases h : classify b0 rest.head? with
    | none => simp [decode, h]
    | some op => simp [decode, h, assemble_ne_endOfBuffer op b0 rest]

theorem decodeAt_eq_endOfBuffer_iff (buf : List Byte) (pos : Nat) :
    decodeAt buf pos = .endOfBuffer ↔ buf.length ≤ pos :=
  (decode_eq_endOfBuffer_iff _).trans List.drop_eq_nil_iff

namespace Machine

open Sys2Proof.Claims

/-! ## The halts of a step (60_exceptions.md R176 to R182) -/

/-- The only reason a step can halt for, given what the decoder answered; an instruction's own halt is
Unsupported-Operation. -/
def haltReasonOf : DecOut → HaltReason
  | .endOfBuffer => .endOfStream
  | .truncated => .truncatedInstruction
  | .ok .unrecognized => .unrecognizedOpcode
  | .ok (.known _) => .unsupportedOperation

theorem haltReasonOf_eq_endOfStream_iff (out : DecOut) :
    haltReasonOf out = .endOfStream ↔ out = .endOfBuffer := by
  rcases out with _ | _ | _ | _ <;> simp [haltReasonOf]

theorem raise_halted {e r : HaltReason} {s t : State} (h : raise e s = .next t)
    (hhalt : HaltedFor t r) : r = e ∧ t = s.halt r := by
  cases h
  cases hhalt
  exact ⟨rfl, rfl⟩

/-- An instruction that halts a running block halts it with Unsupported-Operation. -/
theorem exec_halted {i : Instr} {s t : State} {r : HaltReason} (hrun : Running s)
    (h : exec i s = .next t) (hhalt : HaltedFor t r) :
    r = .unsupportedOperation ∧ t = s.halt r := by
  rcases exec_cases i s with e | ⟨u, e, hkeep, -⟩
  · exact raise_halted (e.symm.trans h) hhalt
  · cases e.symm.trans h
    cases (hkeep.trans hrun).symm.trans hhalt

theorem perform_halted {out : DecOut} {s t : State} {r : HaltReason} (hrun : Running s)
    (h : perform out s = .next t) (hhalt : HaltedFor t r) :
    r = haltReasonOf out ∧ t = s.halt r := by
  rcases out with _ | _ | _ | _
  case ok.known => exact exec_halted hrun h hhalt
  all_goals exact raise_halted h hhalt

theorem legal_of_step {s t : State} (h : step s = .next t) : Legal s :=
  Nat.le_of_not_lt fun hlong => nomatch (step_of_illegal s hlong).symm.trans h

theorem step_of_running {s : State} (hlegal : Legal s) (hrun : Running s) :
    step s = perform s.fetch s :=
  step_of_bytes hlegal hrun rfl

/-- A halting step of a running block: its reason is the one the fetch fixes, and it changes the run
state only. -/
theorem step_halted {s t : State} {r : HaltReason} (hrun : Running s) (h : step s = .next t)
    (hhalt : HaltedFor t r) : r = haltReasonOf s.fetch ∧ t = s.halt r :=
  perform_halted hrun ((step_of_running (legal_of_step h) hrun).symm.trans h) hhalt

theorem step_past_end {s : State} (hlegal : Legal s) (hrun : Running s)
    (hend : s.buf.length ≤ s.ip.toNat) : step s = .next (s.halt .endOfStream) := by
  have hfetch : s.fetch = .endOfBuffer := (decodeAt_eq_endOfBuffer_iff s.buf s.ip.toNat).mpr hend
  rw [step_of_running hlegal hrun, hfetch]
  rfl

/-- Settles O49, by the inversion of a halting step. -/
theorem haltChangesNothingElse : Obligations.HaltChangesNothingElse :=
  fun _ _ _ hrun hstep hhalt => (step_halted hrun hstep hhalt).2

/-- Settles O50: of the halt reasons a fetch fixes, EndOfStream is that of `End` alone, which the
decoder answers exactly past the end of the buffer. -/
theorem endOfStreamIffPastEnd : Obligations.EndOfStreamIffPastEnd := by
  intro s hlegal hrun
  refine ⟨⟨?_, fun hend => ⟨_, step_past_end hlegal hrun hend, rfl⟩⟩, step_past_end hlegal hrun⟩
  rintro ⟨t, hstep, hhalt⟩
  obtain ⟨hreason, -⟩ := step_halted hrun hstep hhalt
  have hfetch : s.fetch = .endOfBuffer := (haltReasonOf_eq_endOfStream_iff s.fetch).mp hreason.symm
  exact (decodeAt_eq_endOfBuffer_iff s.buf s.ip.toNat).mp hfetch

end Machine

end Sys2Proof
end

section
/-! PROOFS. The run loop, 70_reset_and_hazards.md R195: a step on a halted block, and on a running block
for each answer of the decoder (O48). -/

namespace Sys2Proof.Machine

open Sys2Proof.Claims

theorem controlStep_halted {s : State} {r : HaltReason} (h : HaltedFor s r) :
    controlStep s = .next s := by
  simp [controlStep, h]

/-- A step of a halted block changes nothing (60_exceptions.md R185). -/
theorem step_of_halted {s : State} {r : HaltReason} (hlegal : Legal s) (h : HaltedFor s r) :
    step s = .next s :=
  (step_of_legal s hlegal).trans (controlStep_halted h)

theorem step_of_fetch {s : State} {out : DecOut} (hlegal : Legal s) (hrun : Running s)
    (hfetch : s.fetch = out) : step s = perform out s :=
  hfetch ▸ step_of_running hlegal hrun

/-- From a running block every execution answers a state: it still runs, or is halted with nothing
else changed. -/
theorem exec_runs_or_halts (i : Instr) {s : State} (hrun : Running s) :
    ∃ t, exec i s = .next t ∧ (Running t ∨ ∃ e, t = s.halt e) := by
  rcases exec_cases i s with hraise | ⟨t, hexec, hkeep, -⟩
  · exact ⟨_, hraise, .inr ⟨_, rfl⟩⟩
  · exact ⟨t, hexec, .inl (hkeep.trans hrun)⟩

/-- Settles O48: a halted block stays; a running block performs its fetch, which is a halt unless the
decoder answers an instruction. -/
theorem runLoopStep : Obligations.RunLoopStep := by
  intro s hlegal
  refine ⟨fun _ hhalt => step_of_halted hlegal hhalt, fun hrun =>
    ⟨step_of_fetch hlegal hrun, step_of_fetch hlegal hrun, step_of_fetch hlegal hrun,
      fun i hfetch => ?_⟩⟩
  obtain ⟨t, hexec, houtcome⟩ := exec_runs_or_halts i hrun
  exact ⟨t, hexec, (step_of_fetch hlegal hrun hfetch).trans hexec, houtcome⟩

end Sys2Proof.Machine
end

section
/-! PROOFS. The encoder and the decoder are inverse, 40_decoder.md section 3 (O2, O3), shown form by
form: every instruction is assembled by the maker of its form, and every row of the classifier's
table selects one form. -/

namespace Sys2Proof

/-! ## The forms of an instruction (30_encoding.md section 2) -/

/-- Every instruction is what the maker of its form assembles. -/
theorem Instr.form_cases {P : Instr → Prop}
    (movRm8 : ∀ d o r, P (movRm8 d o r)) (movRm16 : ∀ d o r, P (movRm16 d o r))
    (movImm8 : ∀ r v, P (.movR8Imm8 r v)) (movImm16 : ∀ r v, P (.movR16Imm16 r v))
    (movRmImm8 : ∀ o v, P (.movRm8Imm8 o v)) (movRmImm16 : ∀ o v, P (.movRm16Imm16 o v))
    (rm8 : ∀ f d o r, P (arithRm8 f d o r)) (rm16 : ∀ f d o r, P (arithRm16 f d o r))
    (acc8 : ∀ f v, P (arithAcc8 f v)) (acc16 : ∀ f v, P (arithAcc16 f v))
    (imm8 : ∀ f s o v, P (arithImm8 f s o v)) (imm16 : ∀ f o v, P (arithImm16 f o v))
    (immSext : ∀ f o v, P (arithImmSext f o v)) (jcc : ∀ c d, P (jccInstr c d)) : ∀ i, P i
  | .movRm8R8 o r => movRm8 false o r
  | .movRm16R16 o r => movRm16 false o r
  | .movR8Rm8 r o => movRm8 true o r
  | .movR16Rm16 r o => movRm16 true o r
  | .movR8Imm8 r v => movImm8 r v
  | .movR16Imm16 r v => movImm16 r v
  | .movRm8Imm8 o v => movRmImm8 o v
  | .movRm16Imm16 o v => movRmImm16 o v
  | .addRm8R8 o r => rm8 .add false o r
  | .addRm16R16 o r => rm16 .add false o r
  | .addR8Rm8 r o => rm8 .add true o r
  | .addR16Rm16 r o => rm16 .add true o r
  | .addAlImm8 v => acc8 .add v
  | .addAxImm16 v => acc16 .add v
  | .addRm8Imm8 o v => imm8 .add false o v
  | .addRm16Imm16 o v => imm16 .add o v
  | .addRm8Imm8S o v => imm8 .add true o v
  | .addRm16Imm8 o v => immSext .add o v
  | .subRm8R8 o r => rm8 .sub false o r
  | .subRm16R16 o r => rm16 .sub false o r
  | .subR8Rm8 r o => rm8 .sub true o r
  | .subR16Rm16 r o => rm16 .sub true o r
  | .subAlImm8 v => acc8 .sub v
  | .subAxImm16 v => acc16 .sub v
  | .subRm8Imm8 o v => imm8 .sub false o v
  | .subRm16Imm16 o v => imm16 .sub o v
  | .subRm8Imm8S o v => imm8 .sub true o v
  | .subRm16Imm8 o v => immSext .sub o v
  | .cmpRm8R8 o r => rm8 .cmp false o r
  | .cmpRm16R16 o r => rm16 .cmp false o r
  | .cmpR8Rm8 r o => rm8 .cmp true o r
  | .cmpR16Rm16 r o => rm16 .cmp true o r
  | .cmpAlImm8 v => acc8 .cmp v
  | .cmpAxImm16 v => acc16 .cmp v
  | .cmpRm8Imm8 o v => imm8 .cmp false o v
  | .cmpRm16Imm16 o v => imm16 .cmp o v
  | .cmpRm8Imm8S o v => imm8 .cmp true o v
  | .cmpRm16Imm8 o v => immSext .cmp o v
  | .jo d => jcc .o d
  | .jno d => jcc .no d
  | .jb d => jcc .b d
  | .jnb d => jcc .nb d
  | .je d => jcc .e d
  | .jne d => jcc .ne d
  | .js d => jcc .s d
  | .jns d => jcc .ns d
  | .jp d => jcc .p d
  | .jnp d => jcc .np d
  | .jl d => jcc .l d
  | .jnl d => jcc .nl d
  | .loopnz d => jcc .loopnz d
  | .loopz d => jcc .loopz d
  | .loop d => jcc .loop d
  | .jcxz d => jcc .cxz d

/-! ## First bytes (R61 to R66) -/

/-- A first byte with the upper bits of `p`, `d` or `s` in bit 1 and `w` in bit 0. -/
def opByte (p : Byte) (d w : Bool) : Byte := p ||| (BitVec.ofBool d ++ BitVec.ofBool w).zeroExtend 8

theorem opByte_of_mask {b0 p : Byte} (h : b0 &&& 0xFC = p) :
    b0 = opByte p (b0.getLsbD 1) (b0.getLsbD 0) := by
  subst h
  revert b0
  decide

theorem opByte_fields : ∀ {p : Byte}, p &&& 0xFC = p → ∀ d w : Bool, opByte p d w &&& 0xFC = p ∧
    (opByte p d w).getLsbD 1 = d ∧ (opByte p d w).getLsbD 0 = w := by decide

/-! ## Register tables and immediates as pairs of a reader and a writer (R68, R74) -/

/-- The register table and the register numbers are inverse. -/
structure IsRegTable {ρ : Type} (name : BitVec 3 → ρ) (num : ρ → BitVec 3) : Prop where
  name_num (r : ρ) : name (num r) = r
  num_name (f : BitVec 3) : num (name f) = f

theorem isRegTable_reg8 : IsRegTable reg8Of reg8Num := ⟨reg8Of_reg8Num, reg8Num_reg8Of⟩

theorem isRegTable_reg16 : IsRegTable reg16Of reg16Num := ⟨reg16Of_reg16Num, reg16Num_reg16Of⟩

/-- The reader of an immediate takes exactly what the writer puts down. -/
structure IsImmediate {α : Type} (take : List Byte → Option α) (put : α → List Byte) : Prop where
  take_put (v : α) (rest : List Byte) : take (put v ++ rest) = some v
  put_take {bytes : List Byte} {v : α} : take bytes = some v → put v <+: bytes

/-- An 8-bit immediate, as `imm16Bytes` for a 16-bit one. -/
def imm8Bytes (v : Byte) : List Byte := [v]

theorem isImmediate_imm8 : IsImmediate takeImm8 imm8Bytes where
  take_put _ _ := rfl
  put_take {bytes v} h := by
    match bytes, h with
    | _ :: rest, h => cases h; exact ⟨rest, rfl⟩

theorem isImmediate_imm16 : IsImmediate takeImm16 imm16Bytes where
  take_put v rest := by simp [imm16Bytes, takeImm16]
  put_take {bytes v} h := by
    match bytes, h with
    | lo :: hi :: rest, h => cases h; exact ⟨rest, by simp [imm16Bytes]⟩

/-! ## Instructions as they are written -/

/-- The instruction is well formed and the bytes begin with its encoding. -/
def Instr.Begins (i : Instr) (bytes : List Byte) : Prop := i.wf = true ∧ encode i <+: bytes

/-- The decoder reads the instruction back from its encoding, whatever follows. -/
def Instr.ReadBack (i : Instr) : Prop :=
  i.wf = true → ∀ rest, decode (encode i ++ rest) = .ok (.known i)

theorem assembled_eq_known {o : Option Instr} {i : Instr} (h : assembled o = .ok (.known i)) :
    o = some i := by
  cases o <;> cases h
  rfl

/-! ### Form RM (R97) -/

/-- `mk` makes the instructions of form RM that begin with the byte `b0`, in the decoder and in the
encoder. -/
structure IsRmCode {ρ : Type} (b0 : Byte) (name : BitVec 3 → ρ) (num : ρ → BitVec 3)
    (mk : Rm ρ → ρ → Instr) : Prop extends IsRegTable name num where
  decode_eq (b1 : Byte) (rest : List Byte) : decode (b0 :: b1 :: rest) = assembled
    ((resolve name (modField b1) (rmField b1) rest).map fun p => mk p.1 (name (regField b1)))
  encode_eq (o : Rm ρ) (r : ρ) : encode (mk o r) = b0 :: rmBytes num (num r) o
  wf_eq (o : Rm ρ) (r : ρ) : (mk o r).wf = o.wf

theorem IsRmCode.readBack {ρ : Type} {b0 : Byte} {name : BitVec 3 → ρ} {num : ρ → BitVec 3}
    {mk : Rm ρ → ρ → Instr} (h : IsRmCode b0 name num mk) (o : Rm ρ) (r : ρ) :
    (mk o r).ReadBack := by
  intro hwf rest
  obtain ⟨b1, tail, hbytes, hreg, hres⟩ :=
    resolve_rmBytes name num h.name_num (num r) o ((h.wf_eq o r).symm.trans hwf) rest
  rw [h.encode_eq, hbytes, List.cons_append, List.cons_append, h.decode_eq, hres, hreg,
    Option.map_some, h.name_num, assembled]

theorem IsRmCode.begins {ρ : Type} {b0 : Byte} {name : BitVec 3 → ρ} {num : ρ → BitVec 3}
    {mk : Rm ρ → ρ → Instr} (h : IsRmCode b0 name num mk) {b1 : Byte} {rest : List Byte} {i : Instr}
    (hi : decode (b0 :: b1 :: rest) = .ok (.known i)) : i.Begins (b0 :: b1 :: rest) := by
  rw [h.decode_eq] at hi
  obtain ⟨⟨o, rest'⟩, hres, rfl⟩ := Option.map_eq_some_iff.mp (assembled_eq_known hi)
  obtain ⟨hwf, hbytes⟩ := rmBytes_resolve name num h.num_name b1 rest rest' o hres
  refine ⟨(h.wf_eq _ _).trans hwf, rest', ?_⟩
  rw [h.encode_eq, h.num_name, hbytes, List.cons_append]

/-- The opcode is form RM's from the byte `p` up, and the encoder writes what the makers
assemble. -/
structure IsRmOpcode (p : Byte) (op : Opcode) (mk8 : Bool → Rm8 → Reg8 → Instr)
    (mk16 : Bool → Rm16 → Reg16 → Instr) : Prop extends IsRmForm op mk8 mk16 where
  row : ⟨0xFC, p, none, op⟩ ∈ opcodeTable
  base : p &&& 0xFC = p
  encode8 (d : Bool) (o : Rm8) (r : Reg8) : encode (mk8 d o r) = encRm8 (opByte p d false) o r
  encode16 (d : Bool) (o : Rm16) (r : Reg16) : encode (mk16 d o r) = encRm16 (opByte p d true) o r
  wf8 (d : Bool) (o : Rm8) (r : Reg8) : (mk8 d o r).wf = o.wf
  wf16 (d : Bool) (o : Rm16) (r : Reg16) : (mk16 d o r).wf = o.wf

theorem isRmOpcode_move : IsRmOpcode 0x88 (.move .rm) movRm8 movRm16 where
  toIsRmForm := isRmForm_move
  row := by decide
  base := by decide
  encode8 d _ _ := by cases d <;> rfl
  encode16 d _ _ := by cases d <;> rfl
  wf8 d _ _ := by cases d <;> rfl
  wf16 d _ _ := by cases d <;> rfl

/-- The first byte of a family's RM instructions with d = 0 and w = 0. -/
def arithRmByte : Family → Byte
  | .add => 0x00
  | .sub => 0x28
  | .cmp => 0x38

theorem isRmOpcode_arithmetic (f : Family) :
    IsRmOpcode (arithRmByte f) (.arithmetic f .rm) (arithRm8 f) (arithRm16 f) where
  toIsRmForm := isRmForm_arithmetic f
  row := by cases f <;> decide
  base := by cases f <;> decide
  encode8 d _ _ := by cases f <;> cases d <;> rfl
  encode16 d _ _ := by cases f <;> cases d <;> rfl
  wf8 d _ _ := by cases f <;> cases d <;> rfl
  wf16 d _ _ := by cases f <;> cases d <;> rfl

section
variable {p : Byte} {op : Opcode} {mk8 : Bool → Rm8 → Reg8 → Instr}
  {mk16 : Bool → Rm16 → Reg16 → Instr} (h : IsRmOpcode p op mk8 mk16)
include h

theorem IsRmOpcode.code8 (d : Bool) : IsRmCode (opByte p d false) reg8Of reg8Num (mk8 d) where
  toIsRegTable := isRegTable_reg8
  decode_eq b1 rest := by
    obtain ⟨hp, hd, hw⟩ := opByte_fields h.base d false
    rw [decode_of_first h.row hp, h.assemble_eq, assembleRm_byte mk8 mk16 hw, hd]
  encode_eq := h.encode8 d
  wf_eq := h.wf8 d

theorem IsRmOpcode.code16 (d : Bool) : IsRmCode (opByte p d true) reg16Of reg16Num (mk16 d) where
  toIsRegTable := isRegTable_reg16
  decode_eq b1 rest := by
    obtain ⟨hp, hd, hw⟩ := opByte_fields h.base d true
    rw [decode_of_first h.row hp, h.assemble_eq, assembleRm_word mk8 mk16 hw, hd]
  encode_eq := h.encode16 d
  wf_eq := h.wf16 d

theorem IsRmOpcode.begins {b0 : Byte} (hb0 : b0 &&& 0xFC = p) {rest : List Byte} {i : Instr}
    (hi : decode (b0 :: rest) = .ok (.known i)) : i.Begins (b0 :: rest) := by
  rw [opByte_of_mask hb0] at hi ⊢
  match rest with
  | [] =>
    obtain ⟨hp, -, -⟩ := opByte_fields h.base (b0.getLsbD 1) (b0.getLsbD 0)
    rw [decode_of_first h.row hp, h.assemble_eq] at hi
    cases hi
  | b1 :: rest =>
    cases hw : b0.getLsbD 0 with
    | false => rw [hw] at hi; exact (h.code8 _).begins hi
    | true => rw [hw] at hi; exact (h.code16 _).begins hi

end

/-! ### Forms IMMREG, IMMACC and JCC (R98, R99, R102) -/

/-- `mk` makes the instructions of one immediate or displacement after the byte `b0`, in the decoder
and in the encoder. -/
structure IsPlainCode {α : Type} (b0 : Byte) (take : List Byte → Option α) (put : α → List Byte)
    (mk : α → Instr) : Prop extends IsImmediate take put where
  decode_eq (rest : List Byte) : decode (b0 :: rest) = assembled ((take rest).map mk)
  encode_eq (v : α) : encode (mk v) = b0 :: put v
  wf_eq (v : α) : (mk v).wf = true

theorem IsPlainCode.readBack {α : Type} {b0 : Byte} {take : List Byte → Option α}
    {put : α → List Byte} {mk : α → Instr} (h : IsPlainCode b0 take put mk) (v : α) :
    (mk v).ReadBack := by
  intro _ rest
  rw [h.encode_eq, List.cons_append, h.decode_eq, h.take_put, Option.map_some, assembled]

theorem IsPlainCode.begins {α : Type} {b0 : Byte} {take : List Byte → Option α}
    {put : α → List Byte} {mk : α → Instr} (h : IsPlainCode b0 take put mk) {rest : List Byte}
    {i : Instr} (hi : decode (b0 :: rest) = .ok (.known i)) : i.Begins (b0 :: rest) := by
  rw [h.decode_eq] at hi
  obtain ⟨v, hv, rfl⟩ := Option.map_eq_some_iff.mp (assembled_eq_known hi)
  refine ⟨h.wf_eq v, ?_⟩
  rw [h.encode_eq]
  exact (List.prefix_cons_inj b0).mpr (h.put_take hv)

theorem isPlainCode_movR8Imm8 (r : Reg8) : IsPlainCode (0xB0 ||| (reg8Num r).zeroExtend 8) takeImm8
    imm8Bytes (.movR8Imm8 r) where
  toIsImmediate := isImmediate_imm8
  decode_eq := Machine.decode_immRegByte r
  encode_eq _ := rfl
  wf_eq _ := rfl

theorem isPlainCode_movR16Imm16 (r : Reg16) : IsPlainCode (0xB8 ||| (reg16Num r).zeroExtend 8)
    takeImm16 imm16Bytes (.movR16Imm16 r) where
  toIsImmediate := isImmediate_imm16
  decode_eq := Machine.decode_immRegWord r
  encode_eq _ := rfl
  wf_eq _ := rfl

/-- The first byte of form IMMREG, rebuilt from `w` and `reg`. -/
theorem immRegByte_cases : ∀ {b0 : Byte}, b0 &&& 0xF0 = 0xB0 →
    b0 = 0xB0 ||| (immRegReg b0).zeroExtend 8 ∨ b0 = 0xB8 ||| (immRegReg b0).zeroExtend 8 := by
  decide

theorem begins_of_immReg {b0 : Byte} (hb0 : b0 &&& 0xF0 = 0xB0) {rest : List Byte} {i : Instr}
    (hi : decode (b0 :: rest) = .ok (.known i)) : i.Begins (b0 :: rest) := by
  rcases immRegByte_cases hb0 with h | h
  · rw [h, ← reg8Num_reg8Of (immRegReg b0)] at hi ⊢
    exact (isPlainCode_movR8Imm8 _).begins hi
  · rw [h, ← reg16Num_reg16Of (immRegReg b0)] at hi ⊢
    exact (isPlainCode_movR16Imm16 _).begins hi

/-- The first byte of a family's IMMACC instructions with w = 0. -/
def arithAccByte : Family → Byte
  | .add => 0x04
  | .sub => 0x2C
  | .cmp => 0x3C

theorem decode_immAcc (f : Family) {b0 : Byte} (h : b0 &&& 0xFE = arithAccByte f)
    (rest : List Byte) : decode (b0 :: rest) = assembled (assembleImmAcc f b0 rest) :=
  decode_of_first (op := .arithmetic f .immAcc) (by cases f <;> decide) h rest

theorem assembleImmAcc_byte (f : Family) {b0 : Byte} (hw : b0.getLsbD 0 = false)
    (rest : List Byte) : assembleImmAcc f b0 rest = (takeImm8 rest).map (arithAcc8 f) := by
  rw [assembleImmAcc, wBit_eq, hw]
  rfl

theorem assembleImmAcc_word (f : Family) {b0 : Byte} (hw : b0.getLsbD 0 = true)
    (rest : List Byte) : assembleImmAcc f b0 rest = (takeImm16 rest).map (arithAcc16 f) := by
  rw [assembleImmAcc, wBit_eq, hw]
  rfl

theorem isPlainCode_arithAcc8 (f : Family) : IsPlainCode (opByte (arithAccByte f) false false)
    takeImm8 imm8Bytes (arithAcc8 f) where
  toIsImmediate := isImmediate_imm8
  decode_eq rest := by
    rw [decode_immAcc f (by cases f <;> decide), assembleImmAcc_byte f (by cases f <;> decide)]
  encode_eq _ := by cases f <;> rfl
  wf_eq _ := by cases f <;> rfl

theorem isPlainCode_arithAcc16 (f : Family) : IsPlainCode (opByte (arithAccByte f) false true)
    takeImm16 imm16Bytes (arithAcc16 f) where
  toIsImmediate := isImmediate_imm16
  decode_eq rest := by
    rw [decode_immAcc f (by cases f <;> decide), assembleImmAcc_word f (by cases f <;> decide)]
  encode_eq _ := by cases f <;> rfl
  wf_eq _ := by cases f <;> rfl

/-- A first byte that fixes all but `w`. -/
theorem opByte_of_mask_w : ∀ b0 : Byte, b0 = opByte (b0 &&& 0xFE) false (b0.getLsbD 0) := by decide

theorem begins_of_immAcc (f : Family) {b0 : Byte} (hb0 : b0 &&& 0xFE = arithAccByte f)
    {rest : List Byte} {i : Instr} (hi : decode (b0 :: rest) = .ok (.known i)) :
    i.Begins (b0 :: rest) := by
  rw [opByte_of_mask_w b0, hb0] at hi ⊢
  cases hw : b0.getLsbD 0 with
  | false => rw [hw] at hi; exact (isPlainCode_arithAcc8 f).begins hi
  | true => rw [hw] at hi; exact (isPlainCode_arithAcc16 f).begins hi

theorem encode_jcc {b : Byte} {c : Cond} (h : (b, c) ∈ jccTable) (d : Byte) :
    encode (jccInstr c d) = [b, d] := by
  have htable : ∀ p ∈ jccTable, encode (jccInstr p.2 d) = [p.1, d] := by
    simp [jccTable, jccInstr, encode]
  exact htable (b, c) h

theorem isPlainCode_jccInstr {b : Byte} {c : Cond} (h : (b, c) ∈ jccTable) :
    IsPlainCode b takeImm8 imm8Bytes (jccInstr c) where
  toIsImmediate := isImmediate_imm8
  decode_eq rest := decode_of_first (op := .conditionalJump c)
    (List.mem_append_right _ (List.mem_map.mpr ⟨(b, c), h, rfl⟩)) BitVec.and_allOnes rest
  encode_eq := encode_jcc h
  wf_eq _ := by cases c <;> rfl

theorem readBack_jccInstr (c : Cond) (d : Byte) : (jccInstr c d).ReadBack := by
  obtain ⟨b, hb⟩ := Machine.exists_jccByte c
  exact (isPlainCode_jccInstr hb).readBack d

/-! ### Forms IMMRM and MOVIMMRM (R100, R101) -/

/-- What both forms read after their first byte: an operand, and an immediate after it. -/
def readOperandImm {ρ α : Type} (name : BitVec 3 → ρ) (take : List Byte → Option α)
    (mk : Rm ρ → α → Instr) (b1 : Byte) (rest : List Byte) : Option Instr :=
  (resolve name (modField b1) (rmField b1) rest).bind fun p => (take p.2).map (mk p.1)

/-- `mk` makes the instructions with an operand and an immediate that begin with the byte `b0` and
have `g` in `b1[5:3]`, in the decoder and in the encoder. -/
structure IsImmCode {ρ α : Type} (b0 : Byte) (g : BitVec 3) (name : BitVec 3 → ρ)
    (num : ρ → BitVec 3) (take : List Byte → Option α) (put : α → List Byte)
    (mk : Rm ρ → α → Instr) : Prop
    extends IsRegTable name num, IsImmediate take put where
  decode_eq {b1 : Byte} (rest : List Byte) : regField b1 = g →
    decode (b0 :: b1 :: rest) = assembled (readOperandImm name take mk b1 rest)
  encode_eq (o : Rm ρ) (v : α) : encode (mk o v) = b0 :: (rmBytes num g o ++ put v)
  wf_eq (o : Rm ρ) (v : α) : (mk o v).wf = o.wf

section
variable {ρ α : Type} {b0 : Byte} {g : BitVec 3} {name : BitVec 3 → ρ} {num : ρ → BitVec 3}
  {take : List Byte → Option α} {put : α → List Byte} {mk : Rm ρ → α → Instr}
  (h : IsImmCode b0 g name num take put mk)
include h

theorem IsImmCode.readBack (o : Rm ρ) (v : α) : (mk o v).ReadBack := by
  intro hwf rest
  obtain ⟨b1, tail, hbytes, hreg, hres⟩ :=
    resolve_rmBytes name num h.name_num g o ((h.wf_eq o v).symm.trans hwf) (put v ++ rest)
  rw [h.encode_eq, hbytes, List.cons_append, List.cons_append, List.cons_append, List.append_assoc,
    h.decode_eq _ hreg, readOperandImm, hres, Option.bind_some, h.take_put, Option.map_some,
    assembled]

theorem IsImmCode.begins {b1 : Byte} (hb1 : regField b1 = g) {rest : List Byte} {i : Instr}
    (hi : decode (b0 :: b1 :: rest) = .ok (.known i)) : i.Begins (b0 :: b1 :: rest) := by
  rw [h.decode_eq rest hb1] at hi
  obtain ⟨⟨o, rest'⟩, hres, hmap⟩ := Option.bind_eq_some_iff.mp (assembled_eq_known hi)
  obtain ⟨v, hv, rfl⟩ := Option.map_eq_some_iff.mp hmap
  obtain ⟨hwf, hbytes⟩ := rmBytes_resolve name num h.num_name b1 rest rest' o hres
  refine ⟨(h.wf_eq o v).trans hwf, ?_⟩
  rw [h.encode_eq, hbytes, hb1]
  exact (List.prefix_cons_inj b0).mpr ((List.prefix_append_right_inj _).mpr (h.put_take hv))

end

theorem assembleMovImmRm_byte {b0 : Byte} (hw : b0.getLsbD 0 = false) (b1 : Byte)
    (rest : List Byte) : assembleMovImmRm b0 (b1 :: rest) =
      readOperandImm reg8Of takeImm8 .movRm8Imm8 b1 rest := by
  simp only [assembleMovImmRm, wBit_eq, hw, readOperandImm]
  cases resolve reg8Of (modField b1) (rmField b1) rest <;> rfl

theorem assembleMovImmRm_word {b0 : Byte} (hw : b0.getLsbD 0 = true) (b1 : Byte)
    (rest : List Byte) : assembleMovImmRm b0 (b1 :: rest) =
      readOperandImm reg16Of takeImm16 .movRm16Imm16 b1 rest := by
  simp only [assembleMovImmRm, wBit_eq, hw, readOperandImm]
  cases resolve reg16Of (modField b1) (rmField b1) rest <;> rfl

theorem decode_movImmRm {b0 b1 : Byte} (h : b0 &&& 0xFE = 0xC6) (h1 : regField b1 = 0)
    (rest : List Byte) : decode (b0 :: b1 :: rest) = assembled (assembleMovImmRm b0 (b1 :: rest)) :=
  decode_of_second (op := .move .movImmRm) (by decide) h h1 rest

theorem isImmCode_movRm8Imm8 :
    IsImmCode 0xC6 0 reg8Of reg8Num takeImm8 imm8Bytes .movRm8Imm8 where
  toIsRegTable := isRegTable_reg8
  toIsImmediate := isImmediate_imm8
  decode_eq rest h1 := by rw [decode_movImmRm (by decide) h1, assembleMovImmRm_byte (by decide)]
  encode_eq _ _ := rfl
  wf_eq _ _ := rfl

theorem isImmCode_movRm16Imm16 :
    IsImmCode 0xC7 0 reg16Of reg16Num takeImm16 imm16Bytes .movRm16Imm16 where
  toIsRegTable := isRegTable_reg16
  toIsImmediate := isImmediate_imm16
  decode_eq rest h1 := by rw [decode_movImmRm (by decide) h1, assembleMovImmRm_word (by decide)]
  encode_eq _ _ := rfl
  wf_eq _ _ := rfl

/-- `b1[5:3]` of a family's IMMRM instructions. -/
def arithImmOp : Family → BitVec 3
  | .add => 0
  | .sub => 5
  | .cmp => 7

theorem decode_immRm (f : Family) {b0 b1 : Byte} (h : b0 &&& 0xFC = 0x80)
    (h1 : regField b1 = arithImmOp f) (rest : List Byte) :
    decode (b0 :: b1 :: rest) = assembled (assembleImmRm f b0 (b1 :: rest)) :=
  decode_of_second (op := .arithmetic f .immRm) (by cases f <;> decide) h h1 rest

theorem isImmCode_arithImm8 (f : Family) (s : Bool) : IsImmCode (opByte 0x80 s false) (arithImmOp f)
    reg8Of reg8Num takeImm8 imm8Bytes (arithImm8 f s) where
  toIsRegTable := isRegTable_reg8
  toIsImmediate := isImmediate_imm8
  decode_eq rest h1 := by
    obtain ⟨hp, hs, hw⟩ := opByte_fields (p := 0x80) (by decide) s false
    rw [decode_immRm f hp h1, assembleImmRm_byte f hw, sBit_eq, hs, readOperandImm]
  encode_eq _ _ := by cases f <;> cases s <;> rfl
  wf_eq _ _ := by cases f <;> cases s <;> rfl

theorem isImmCode_arithImm16 (f : Family) : IsImmCode (opByte 0x80 false true) (arithImmOp f)
    reg16Of reg16Num takeImm16 imm16Bytes (arithImm16 f) where
  toIsRegTable := isRegTable_reg16
  toIsImmediate := isImmediate_imm16
  decode_eq rest h1 := by rw [decode_immRm f (by decide) h1, assembleImmRm_word f (by decide)]; rfl
  encode_eq _ _ := by cases f <;> rfl
  wf_eq _ _ := by cases f <;> rfl

theorem isImmCode_arithImmSext (f : Family) : IsImmCode (opByte 0x80 true true) (arithImmOp f)
    reg16Of reg16Num takeImm8 imm8Bytes (arithImmSext f) where
  toIsRegTable := isRegTable_reg16
  toIsImmediate := isImmediate_imm8
  decode_eq rest h1 := by rw [decode_immRm f (by decide) h1, assembleImmRm_word f (by decide)]; rfl
  encode_eq _ _ := by cases f <;> rfl
  wf_eq _ _ := by cases f <;> rfl

theorem begins_of_movImmRm {b0 b1 : Byte} (hb0 : b0 &&& 0xFE = 0xC6) (hb1 : regField b1 = 0)
    {rest : List Byte} {i : Instr} (hi : decode (b0 :: b1 :: rest) = .ok (.known i)) :
    i.Begins (b0 :: b1 :: rest) := by
  have hbyte : b0 = 0xC6 ∨ b0 = 0xC7 := by clear hi; revert b0; decide
  rcases hbyte with rfl | rfl
  · exact isImmCode_movRm8Imm8.begins hb1 hi
  · exact isImmCode_movRm16Imm16.begins hb1 hi

theorem begins_of_immRm (f : Family) {b0 b1 : Byte} (hb0 : b0 &&& 0xFC = 0x80)
    (hb1 : regField b1 = arithImmOp f) {rest : List Byte} {i : Instr}
    (hi : decode (b0 :: b1 :: rest) = .ok (.known i)) : i.Begins (b0 :: b1 :: rest) := by
  rw [opByte_of_mask hb0] at hi ⊢
  cases hw : b0.getLsbD 0 with
  | false => rw [hw] at hi; exact (isImmCode_arithImm8 f _).begins hb1 hi
  | true =>
    rw [hw] at hi
    cases hs : b0.getLsbD 1 with
    | false => rw [hs] at hi; exact (isImmCode_arithImm16 f).begins hb1 hi
    | true => rw [hs] at hi; exact (isImmCode_arithImmSext f).begins hb1 hi

/-! ## Decoding the encoder's bytes -/

theorem Instr.readBack : ∀ i : Instr, i.ReadBack :=
  Instr.form_cases
    (movRm8 := fun d => (isRmOpcode_move.code8 d).readBack)
    (movRm16 := fun d => (isRmOpcode_move.code16 d).readBack)
    (movImm8 := fun r => (isPlainCode_movR8Imm8 r).readBack)
    (movImm16 := fun r => (isPlainCode_movR16Imm16 r).readBack)
    (movRmImm8 := isImmCode_movRm8Imm8.readBack)
    (movRmImm16 := isImmCode_movRm16Imm16.readBack)
    (rm8 := fun f d => ((isRmOpcode_arithmetic f).code8 d).readBack)
    (rm16 := fun f d => ((isRmOpcode_arithmetic f).code16 d).readBack)
    (acc8 := fun f => (isPlainCode_arithAcc8 f).readBack)
    (acc16 := fun f => (isPlainCode_arithAcc16 f).readBack)
    (imm8 := fun f s => (isImmCode_arithImm8 f s).readBack)
    (imm16 := fun f => (isImmCode_arithImm16 f).readBack)
    (immSext := fun f => (isImmCode_arithImmSext f).readBack)
    (jcc := readBack_jccInstr)

/-- Settles O2, form by form. -/
theorem decodeInvertsEncode : Obligations.DecodeInvertsEncode :=
  fun i rest hwf => i.readBack hwf rest

/-! ## Encoding what the decoder reads -/

/-- What decodes to an instruction was assembled by the form of a row that matches. -/
theorem exists_row_of_decode {b0 : Byte} {rest : List Byte} {i : Instr}
    (h : decode (b0 :: rest) = .ok (.known i)) :
    ∃ r ∈ opcodeTable, r.hits b0 rest.head? = true := by
  by_contra hnone
  have hfind : opcodeTable.find? (·.hits b0 rest.head?) = none :=
    List.find?_eq_none.mpr fun r hr hhits => hnone ⟨r, hr, hhits⟩
  cases hneed : needsSecond b0 && rest.head?.isNone <;>
    simp [decode, classify, hneed, classifyIn, hfind, assemble] at h

/-- The decoder's instructions under the row are the encoder's. -/
def OpcodeRow.Sound (r : OpcodeRow) : Prop :=
  ∀ (b0 : Byte) (rest : List Byte) (i : Instr), r.hits b0 rest.head? = true →
    decode (b0 :: rest) = .ok (.known i) → i.Begins (b0 :: rest)

theorem OpcodeRow.sound_of_first {mask pattern : Byte} {op : Opcode}
    (h : ∀ {b0 : Byte}, b0 &&& mask = pattern → ∀ {rest : List Byte} {i : Instr},
      decode (b0 :: rest) = .ok (.known i) → i.Begins (b0 :: rest)) :
    OpcodeRow.Sound ⟨mask, pattern, none, op⟩ := by
  intro b0 rest i hhits hi
  obtain ⟨hfits, -⟩ := (OpcodeRow.hits_iff _ _ _).mp hhits
  exact h ((OpcodeRow.fits_iff _ _).mp hfits) hi

theorem OpcodeRow.sound_of_second {mask pattern : Byte} {f : BitVec 3} {op : Opcode}
    (h : ∀ {b0 b1 : Byte}, b0 &&& mask = pattern → regField b1 = f →
      ∀ {rest : List Byte} {i : Instr}, decode (b0 :: b1 :: rest) = .ok (.known i) →
        i.Begins (b0 :: b1 :: rest)) :
    OpcodeRow.Sound ⟨mask, pattern, some f, op⟩ := by
  intro b0 rest i hhits hi
  obtain ⟨hfits, hsecond⟩ := (OpcodeRow.hits_iff _ _ _).mp hhits
  obtain ⟨b1, hhead, hb1⟩ := Option.map_eq_some_iff.mp (hsecond rfl)
  obtain ⟨tail, rfl⟩ := List.head?_eq_some_iff.mp hhead
  exact h ((OpcodeRow.fits_iff _ _).mp hfits) hb1 hi

theorem opcodeTable_sound : ∀ r ∈ opcodeTable, r.Sound := by
  simp only [opcodeTable, List.forall_mem_append, List.forall_mem_cons, List.not_mem_nil,
    false_implies, implies_true, and_true, List.forall_mem_map]
  refine ⟨⟨?rmMove, ?immReg, ?movImmRm, ?rmAdd, ?accAdd, ?rmSub, ?accSub, ?rmCmp, ?accCmp, ?immAdd,
    ?immSub, ?immCmp⟩, ?jcc⟩
  case rmMove => exact OpcodeRow.sound_of_first isRmOpcode_move.begins
  case rmAdd => exact OpcodeRow.sound_of_first (isRmOpcode_arithmetic .add).begins
  case rmSub => exact OpcodeRow.sound_of_first (isRmOpcode_arithmetic .sub).begins
  case rmCmp => exact OpcodeRow.sound_of_first (isRmOpcode_arithmetic .cmp).begins
  case immReg => exact OpcodeRow.sound_of_first begins_of_immReg
  case accAdd => exact OpcodeRow.sound_of_first (begins_of_immAcc .add)
  case accSub => exact OpcodeRow.sound_of_first (begins_of_immAcc .sub)
  case accCmp => exact OpcodeRow.sound_of_first (begins_of_immAcc .cmp)
  case movImmRm => exact OpcodeRow.sound_of_second begins_of_movImmRm
  case immAdd => exact OpcodeRow.sound_of_second (begins_of_immRm .add)
  case immSub => exact OpcodeRow.sound_of_second (begins_of_immRm .sub)
  case immCmp => exact OpcodeRow.sound_of_second (begins_of_immRm .cmp)
  case jcc =>
    intro p hp
    refine OpcodeRow.sound_of_first fun {b0} hb0 {rest i} hi => ?_
    obtain rfl : b0 = p.1 := BitVec.and_allOnes.symm.trans hb0
    exact (isPlainCode_jccInstr hp).begins hi

/-- The decoder answers an instruction exactly on the bytes that begin with its encoding. -/
theorem decode_eq_known_iff (bytes : List Byte) (i : Instr) :
    decode bytes = .ok (.known i) ↔ i.Begins bytes := by
  refine ⟨fun h => ?_, fun ⟨hwf, rest, hbytes⟩ => hbytes ▸ i.readBack hwf rest⟩
  match bytes, h with
  | b0 :: rest, h =>
    obtain ⟨r, hr, hhits⟩ := exists_row_of_decode h
    exact opcodeTable_sound r hr b0 rest i hhits h

/-- The encoder writes as many bytes as the instruction is long (R103). -/
theorem encode_length (i : Instr) : (encode i).length = i.len := by
  cases i <;>
    simp [encode, encRm8, encRm16, encImm8, encImm16, encImmSext, imm16Bytes, Instr.len]

/-- Settles O3: the bytes begin with the encoding, and the instruction is as long as it. -/
theorem encodeInvertsDecode : Obligations.EncodeInvertsDecode := by
  intro bytes i h
  obtain ⟨hwf, hprefix⟩ := (decode_eq_known_iff bytes i).mp h
  rw [← encode_length]
  exact ⟨hwf, (List.prefix_iff_eq_take.mp hprefix).symm, hprefix.length_le⟩

end Sys2Proof
end

section
/-! PROOFS. The decoder answers Truncated exactly on the non-empty proper prefixes of encodings,
40_decoder.md R94 and R96 (O4). -/

namespace Sys2Proof

/-! ## More bytes after those read -/

/-- A first byte that needs no second one is classified by the rows that fit it. -/
theorem hits_iff_fits {b0 : Byte} (hneed : needsSecond b0 = false) {r : OpcodeRow}
    (hr : r ∈ opcodeTable) (b1 : Option Byte) : r.hits b0 b1 = true ↔ r.fits b0 = true := by
  rw [OpcodeRow.hits_iff, and_iff_left_iff_imp]
  intro hfits hsub
  exact absurd (by rw [hsub, hfits]; rfl) (List.any_eq_false.mp hneed r hr)

/-- Where the second byte was not needed, it does not change what the classifier answers. -/
theorem classify_of_none {b0 : Byte} {op : Opcode} (h : classify b0 none = some op)
    (b1 : Option Byte) : classify b0 b1 = some op := by
  have hneed : needsSecond b0 = false := by
    cases hneed : needsSecond b0 with
    | false => rfl
    | true => simp [classify, hneed] at h
  have hhits : ∀ r ∈ opcodeTable, r.hits b0 b1 = r.hits b0 none := fun r hr =>
    Bool.eq_iff_iff.mpr ((hits_iff_fits hneed hr b1).trans (hits_iff_fits hneed hr none).symm)
  simpa [classify, hneed, classifyIn, List.find?_congr hhits] using h

theorem classify_append {b0 : Byte} {rest : List Byte} {op : Opcode}
    (h : classify b0 rest.head? = some op) (more : List Byte) :
    classify b0 (rest ++ more).head? = some op := by
  cases rest with
  | nil => exact classify_of_none h _
  | cons b1 rest => exact h

theorem assembled_ne_unrecognized (o : Option Instr) : assembled o ≠ .ok .unrecognized := by
  cases o <;> nofun

theorem assemble_eq_unrecognized_iff (op : Opcode) (b0 : Byte) (rest : List Byte) :
    assemble op b0 rest = .ok .unrecognized ↔ op = .unrecognized := by
  cases op with
  | move v => cases v <;> exact iff_of_false (assembled_ne_unrecognized _) nofun
  | arithmetic f v => cases v <;> exact iff_of_false (assembled_ne_unrecognized _) nofun
  | conditionalJump c => exact iff_of_false (assembled_ne_unrecognized _) nofun
  | unrecognized => exact iff_of_true rfl rfl

theorem decode_eq_unrecognized_iff (b0 : Byte) (rest : List Byte) :
    decode (b0 :: rest) = .ok .unrecognized ↔ classify b0 rest.head? = some .unrecognized := by
  cases h : classify b0 rest.head? with
  | none => simp [decode, h]
  | some op => simp [decode, h, assemble_eq_unrecognized_iff]

theorem decode_unrecognized_append {bytes : List Byte} (h : decode bytes = .ok .unrecognized)
    (more : List Byte) : decode (bytes ++ more) = .ok .unrecognized := by
  match bytes, h with
  | b0 :: rest, h =>
    rw [decode_eq_unrecognized_iff] at h
    exact (decode_eq_unrecognized_iff b0 (rest ++ more)).mpr (classify_append h more)

/-! ## Enough bytes after those read -/

theorem exists_takeImm8 {bytes : List Byte} (h : 1 ≤ bytes.length) :
    ∃ v, takeImm8 bytes = some v := by
  match bytes, h with
  | v :: _, _ => exact ⟨v, rfl⟩

theorem exists_takeImm16 {bytes : List Byte} (h : 2 ≤ bytes.length) :
    ∃ v, takeImm16 bytes = some v := by
  match bytes, h with
  | lo :: hi :: _, _ => exact ⟨joinBytes hi lo, rfl⟩

/-- Two bytes are enough for any displacement. -/
theorem exists_resolve {ρ : Type} (name : BitVec 3 → ρ) (mod : BitVec 2) (rm : BitVec 3)
    {rest : List Byte} (h : 4 ≤ rest.length) :
    ∃ o rest', resolve name mod rm rest = some (o, rest') ∧ 2 ≤ rest'.length := by
  match rest, h with
  | lo :: hi :: rest, h =>
    have hlen : 2 ≤ rest.length := by simpa using h
    unfold resolve
    split_ifs <;> exact ⟨_, _, rfl, by simp [Nat.le_add_right_of_le, hlen]⟩

theorem exists_assembleRm (mk8 : Bool → Rm8 → Reg8 → Instr) (mk16 : Bool → Rm16 → Reg16 → Instr)
    (b0 : Byte) {bytes : List Byte} (h : 5 ≤ bytes.length) :
    ∃ i, assembleRm mk8 mk16 b0 bytes = some i := by
  match bytes, h with
  | b1 :: rest, h =>
    have hrest : 4 ≤ rest.length := Nat.le_of_succ_le_succ h
    cases hw : b0.getLsbD 0 with
    | false =>
      obtain ⟨o, rest', hres, -⟩ := exists_resolve reg8Of (modField b1) (rmField b1) hrest
      exact ⟨_, by rw [assembleRm_byte mk8 mk16 hw, hres]; rfl⟩
    | true =>
      obtain ⟨o, rest', hres, -⟩ := exists_resolve reg16Of (modField b1) (rmField b1) hrest
      exact ⟨_, by rw [assembleRm_word mk8 mk16 hw, hres]; rfl⟩

theorem exists_readOperandImm {ρ α : Type} (name : BitVec 3 → ρ) {take : List Byte → Option α}
    (htake : ∀ {bytes : List Byte}, 2 ≤ bytes.length → ∃ v, take bytes = some v)
    (mk : Rm ρ → α → Instr) (b1 : Byte) {rest : List Byte} (h : 4 ≤ rest.length) :
    ∃ i, readOperandImm name take mk b1 rest = some i := by
  obtain ⟨o, rest', hres, hlen⟩ := exists_resolve name (modField b1) (rmField b1) h
  obtain ⟨v, hv⟩ := htake hlen
  exact ⟨mk o v, by rw [readOperandImm, hres, Option.bind_some, hv, Option.map_some]⟩

theorem exists_assembleMovImmRm (b0 : Byte) {bytes : List Byte} (h : 5 ≤ bytes.length) :
    ∃ i, assembleMovImmRm b0 bytes = some i := by
  match bytes, h with
  | b1 :: rest, h =>
    have hrest : 4 ≤ rest.length := Nat.le_of_succ_le_succ h
    cases hw : b0.getLsbD 0 with
    | false =>
      rw [assembleMovImmRm_byte hw]
      exact exists_readOperandImm _ (fun h => exists_takeImm8 (Nat.le_of_succ_le h)) _ b1 hrest
    | true =>
      rw [assembleMovImmRm_word hw]
      exact exists_readOperandImm _ exists_takeImm16 _ b1 hrest

theorem exists_assembleImmRm (f : Family) (b0 : Byte) {bytes : List Byte} (h : 5 ≤ bytes.length) :
    ∃ i, assembleImmRm f b0 bytes = some i := by
  match bytes, h with
  | b1 :: rest, h =>
    have hrest : 4 ≤ rest.length := Nat.le_of_succ_le_succ h
    cases hw : b0.getLsbD 0 with
    | false =>
      rw [assembleImmRm_byte f hw]
      exact exists_readOperandImm _ (fun h => exists_takeImm8 (Nat.le_of_succ_le h)) _ b1 hrest
    | true =>
      rw [assembleImmRm_word f hw]
      cases b0.getLsbD 1 with
      | false => exact exists_readOperandImm _ exists_takeImm16 (arithImm16 f) b1 hrest
      | true =>
        exact exists_readOperandImm _ (fun h => exists_takeImm8 (Nat.le_of_succ_le h))
          (arithImmSext f) b1 hrest

theorem exists_assembleImmReg (b0 : Byte) {bytes : List Byte} (h : 2 ≤ bytes.length) :
    ∃ i, assembleImmReg b0 bytes = some i := by
  obtain ⟨v, hv⟩ := exists_takeImm8 (Nat.le_of_succ_le h)
  obtain ⟨w, hw⟩ := exists_takeImm16 h
  rw [assembleImmReg, hv, hw]
  split <;> exact ⟨_, rfl⟩

theorem exists_assembleImmAcc (f : Family) (b0 : Byte) {bytes : List Byte} (h : 2 ≤ bytes.length) :
    ∃ i, assembleImmAcc f b0 bytes = some i := by
  obtain ⟨v, hv⟩ := exists_takeImm8 (Nat.le_of_succ_le h)
  obtain ⟨w, hw⟩ := exists_takeImm16 h
  rw [assembleImmAcc, hv, hw]
  split <;> exact ⟨_, rfl⟩

/-- Five bytes after the first are enough for any form. -/
theorem exists_assemble {op : Opcode} (hop : op ≠ .unrecognized) (b0 : Byte) {bytes : List Byte}
    (h : 5 ≤ bytes.length) : ∃ i, assemble op b0 bytes = .ok (.known i) := by
  have hsome {o : Option Instr} : (∃ i, o = some i) → ∃ i, assembled o = .ok (.known i) := by
    rintro ⟨i, rfl⟩
    exact ⟨i, rfl⟩
  have htwo : 2 ≤ bytes.length := Nat.le_trans (by decide) h
  cases op with
  | move v =>
    cases v with
    | rm => exact hsome (exists_assembleRm movRm8 movRm16 b0 h)
    | immReg => exact hsome (exists_assembleImmReg b0 htwo)
    | movImmRm => exact hsome (exists_assembleMovImmRm b0 h)
  | arithmetic f v =>
    cases v with
    | rm => exact hsome (exists_assembleRm (arithRm8 f) (arithRm16 f) b0 h)
    | immAcc => exact hsome (exists_assembleImmAcc f b0 htwo)
    | immRm => exact hsome (exists_assembleImmRm f b0 h)
  | conditionalJump c =>
    obtain ⟨d, hd⟩ := exists_takeImm8 (Nat.le_of_succ_le htwo)
    exact hsome ⟨jccInstr c d, by rw [hd, Option.map_some]⟩
  | unrecognized => exact absurd rfl hop

theorem needsSecond_bytes : ∀ {b0 : Byte}, needsSecond b0 = true →
    b0 ∈ [(0x80 : Byte), 0x81, 0x82, 0x83, 0xC6, 0xC7] := by decide

/-- A truncated instruction is completed by enough bytes. -/
theorem exists_decode_append_of_truncated {bytes : List Byte} (h : decode bytes = .truncated) :
    ∃ i, decode (bytes ++ List.replicate 5 0) = .ok (.known i) := by
  match bytes, h with
  | b0 :: rest, h =>
    cases hclass : classify b0 rest.head? with
    | none =>
      obtain ⟨hneed, hrest⟩ : needsSecond b0 = true ∧ rest = [] := by
        simpa [classify] using hclass
      subst hrest
      have hbytes := needsSecond_bytes hneed
      simp only [List.mem_cons, List.not_mem_nil, or_false] at hbytes
      rcases hbytes with rfl | rfl | rfl | rfl | rfl | rfl <;> exact ⟨_, rfl⟩
    | some op =>
      have hop : op ≠ .unrecognized := by
        rintro rfl
        cases h.symm.trans ((decode_eq_unrecognized_iff b0 rest).mpr hclass)
      rw [List.cons_append, decode, classify_append hclass]
      exact exists_assemble hop b0 (by simp)

/-! ## Truncated (R96) -/

/-- Truncated bytes that more bytes complete are a proper beginning of the encoding. -/
theorem properPrefix_of_truncated {bytes more : List Byte} {i : Instr}
    (htrunc : decode bytes = .truncated) (h : decode (bytes ++ more) = .ok (.known i)) :
    i.wf = true ∧ bytes <+: encode i ∧ bytes.length < i.len := by
  obtain ⟨hwf, hprefix⟩ := (decode_eq_known_iff _ i).mp h
  have hnot : ¬ encode i <+: bytes := fun hi => by
    cases htrunc.symm.trans ((decode_eq_known_iff bytes i).mpr ⟨hwf, hi⟩)
  have hbytes : bytes <+: encode i :=
    (List.prefix_or_prefix_of_prefix hprefix (List.prefix_append bytes more)).resolve_left hnot
  refine ⟨hwf, hbytes, Nat.lt_of_not_le fun hle => hnot ?_⟩
  rw [hbytes.eq_of_length_le ((encode_length i).trans_le hle)]

/-- A non-empty proper beginning of an encoding is truncated: were it unrecognized, the encoding
would be, and were it an instruction, the encoding would begin with that one's. -/
theorem truncated_of_properPrefix {bytes : List Byte} {i : Instr} (hwf : i.wf = true)
    (hprefix : bytes <+: encode i) (hne : bytes ≠ []) (hlen : bytes.length < i.len) :
    decode bytes = .truncated := by
  have hi : decode (encode i) = .ok (.known i) :=
    (decode_eq_known_iff _ i).mpr ⟨hwf, List.prefix_rfl⟩
  cases h : decode bytes with
  | endOfBuffer => exact absurd ((decode_eq_endOfBuffer_iff bytes).mp h) hne
  | truncated => rfl
  | ok d =>
    cases d with
    | unrecognized =>
      obtain ⟨more, hmore⟩ := hprefix
      cases hi.symm.trans (hmore ▸ decode_unrecognized_append h more)
    | known j =>
      obtain ⟨hj, hjprefix⟩ := (decode_eq_known_iff bytes j).mp h
      cases hi.symm.trans ((decode_eq_known_iff _ j).mpr ⟨hj, hjprefix.trans hprefix⟩)
      have hle := hjprefix.length_le
      rw [encode_length] at hle
      omega

/-- Settles O4: a truncated instruction is completed by five more bytes, and a proper beginning
is nothing else. -/
theorem truncatedIffProperPrefix : Obligations.TruncatedIffProperPrefix := by
  intro bytes
  constructor
  · intro h
    obtain ⟨i, hi⟩ := exists_decode_append_of_truncated h
    obtain ⟨hwf, hprefix, hlen⟩ := properPrefix_of_truncated h hi
    refine ⟨i, bytes.length, hwf, List.length_pos_iff.mpr ?_, hlen,
      List.prefix_iff_eq_take.mp hprefix⟩
    rintro rfl
    cases h
  · rintro ⟨i, k, hwf, hpos, hlen, rfl⟩
    have htake : ((encode i).take k).length = k := by
      rw [List.length_take, encode_length]
      omega
    refine truncated_of_properPrefix hwf (List.take_prefix k _) ?_ (htake.trans_lt hlen)
    exact List.ne_nil_of_length_pos (hpos.trans_eq htake.symm)

end Sys2Proof
end

section
/-! PROOFS. The classifier's table (O6, O7), the forms IMMREG, IMMACC, MOVIMMRM and JCC (O5, O12,
O14), the effective-address table (O9) and the spec's own words (O1), 30_encoding.md and
40_decoder.md. -/

namespace Sys2Proof

/-! ## The order of the classifier's rows (R77, R78) -/

theorem classifyIn_eq_unrecognized {rows : List OpcodeRow} {b0 : Byte} {b1 : Option Byte}
    (h : ∀ r ∈ rows, ¬ r.hits b0 b1 = true) : classifyIn rows b0 b1 = .unrecognized := by
  rw [classifyIn, List.find?_eq_none.mpr h]

/-- In any rows of the table the one that matches decides, for no other matches. -/
theorem classifyIn_of_hits_subset {rows : List OpcodeRow} (hrows : rows ⊆ opcodeTable)
    {r : OpcodeRow} (hr : r ∈ rows) {b0 : Byte} {b1 : Option Byte} (h : r.hits b0 b1 = true) :
    classifyIn rows b0 b1 = r.opcode := by
  obtain ⟨q, hfind⟩ : ∃ q, rows.find? (·.hits b0 b1) = some q :=
    Option.isSome_iff_exists.mp (List.find?_isSome.mpr ⟨r, hr, h⟩)
  have hq := List.find?_some hfind
  obtain rfl := hits_unique (hrows hr) (hrows (List.mem_of_find?_eq_some hfind)) h hq
  rw [classifyIn, hfind]

theorem classifyIn_perm {rows : List OpcodeRow} (hperm : rows.Perm opcodeTable) (b0 : Byte)
    (b1 : Option Byte) : classifyIn rows b0 b1 = classifyIn opcodeTable b0 b1 := by
  by_cases h : ∃ r ∈ opcodeTable, r.hits b0 b1 = true
  · obtain ⟨r, hr, hhits⟩ := h
    rw [classifyIn_of_hits hr hhits,
      classifyIn_of_hits_subset hperm.subset (hperm.mem_iff.mpr hr) hhits]
  · have hnone : ∀ r ∈ opcodeTable, ¬ r.hits b0 b1 = true := fun r hr hhits => h ⟨r, hr, hhits⟩
    rw [classifyIn_eq_unrecognized hnone,
      classifyIn_eq_unrecognized fun r hr => hnone r (hperm.subset hr)]

/-- Settles O7: rows that both match are one row, so their order cannot matter; the count runs over
the 256 first bytes. -/
theorem classifierOrderIrrelevant : Obligations.ClassifierOrderIrrelevant :=
  ⟨fun _ hr _ hq _ _ => hits_unique hr hq, fun _ b0 b1 hperm => classifyIn_perm hperm b0 b1,
    by decide⟩

/-! ## The Unrecognized space (30_encoding.md section 6) -/

theorem classifyIn_eq_unrecognized_iff (b0 : Byte) (b1 : Option Byte) :
    classifyIn opcodeTable b0 b1 = .unrecognized ↔ ∀ r ∈ opcodeTable, ¬ r.hits b0 b1 = true := by
  refine ⟨fun h r hr hhits => ?_, classifyIn_eq_unrecognized⟩
  have hnamed : ∀ r ∈ opcodeTable, r.opcode ≠ .unrecognized := by decide
  exact hnamed r hr ((classifyIn_of_hits hr hhits).symm.trans h)

/-- The first bytes that are unrecognized whatever follows. -/
def UnrecognizedFirst (b0 : Byte) : Prop :=
  (0x06 ≤ b0 ∧ b0 ≤ 0x27) ∨ (0x2E ≤ b0 ∧ b0 ≤ 0x37) ∨ (0x3E ≤ b0 ∧ b0 ≤ 0x6F) ∨
    (0x76 ≤ b0 ∧ b0 ≤ 0x77) ∨ (0x7E ≤ b0 ∧ b0 ≤ 0x7F) ∨ (0x84 ≤ b0 ∧ b0 ≤ 0x87) ∨
    (0x8C ≤ b0 ∧ b0 ≤ 0xAF) ∨ (0xC0 ≤ b0 ∧ b0 ≤ 0xC5) ∨ (0xC8 ≤ b0 ∧ b0 ≤ 0xDF) ∨ 0xE4 ≤ b0

/-- The first bytes that are unrecognized by the field `f` of the second. -/
def UnrecognizedSecond (b0 : Byte) (f : BitVec 3) : Prop :=
  (0x80 ≤ b0 ∧ b0 ≤ 0x83 ∧ f ∈ [1, 2, 3, 4, 6]) ∨ (0xC6 ≤ b0 ∧ b0 ≤ 0xC7 ∧ f ≠ 0)

theorem unrecognizedFirst_iff : ∀ b0 : Byte, UnrecognizedFirst b0 ↔
    ∀ r ∈ opcodeTable, ¬ r.fits b0 = true := by
  unfold UnrecognizedFirst
  decide

/-- Of the first bytes that a row fits, those that need a second one. -/
theorem unrecognizedSecond_iff : ∀ (b0 : Byte) (f : BitVec 3), UnrecognizedSecond b0 f ↔
    needsSecond b0 = true ∧ ∀ r ∈ opcodeTable, r.fits b0 = true → r.sub ≠ some f := by
  unfold UnrecognizedSecond
  decide

theorem not_unrecognizedFirst {b0 : Byte} (h : needsSecond b0 = true) : ¬ UnrecognizedFirst b0 := by
  obtain ⟨r, hr, hrow⟩ := List.any_eq_true.mp h
  obtain ⟨-, hfits⟩ := Bool.and_eq_true_iff.mp hrow
  exact fun hnone => (unrecognizedFirst_iff b0).mp hnone r hr hfits

/-- A first byte that needs a second one is classified by the rows that fit both. -/
theorem hits_iff_sub {b0 : Byte} (hneed : needsSecond b0 = true) {r : OpcodeRow}
    (hr : r ∈ opcodeTable) (b1 : Byte) :
    r.hits b0 (some b1) = true ↔ r.fits b0 = true ∧ r.sub = some (regField b1) := by
  rw [OpcodeRow.hits_iff, Option.map_some, eq_comm (b := r.sub)]
  refine and_congr_right fun hfits => ⟨fun h => h ?_, fun h _ => h⟩
  refine Option.isSome_iff_ne_none.mpr fun hsub => ?_
  cases hneed.symm.trans (needsSecond_eq_false hr hsub hfits)

theorem decode_unrecognized_iff_ranges (b0 : Byte) (rest : List Byte) :
    decode (b0 :: rest) = .ok .unrecognized ↔ UnrecognizedFirst b0 ∨
      ∃ b1 tail, rest = b1 :: tail ∧ UnrecognizedSecond b0 (regField b1) := by
  rw [decode_eq_unrecognized_iff]
  cases hneed : needsSecond b0 with
  | false =>
    have hsecond : ∀ f, ¬ UnrecognizedSecond b0 f := fun f h => by
      cases hneed.symm.trans ((unrecognizedSecond_iff b0 f).mp h).1
    simp only [classify, hneed, Bool.false_and, Bool.false_eq_true, if_false, Option.some.injEq,
      classifyIn_eq_unrecognized_iff, unrecognizedFirst_iff, hsecond, and_false, exists_false,
      or_false]
    exact forall₂_congr fun r hr => not_congr (hits_iff_fits hneed hr _)
  | true =>
    cases rest with
    | nil => simp [classify, hneed, not_unrecognizedFirst hneed]
    | cons b1 tail =>
      have hrows : (∀ r ∈ opcodeTable, ¬ r.hits b0 (some b1) = true) ↔
          ∀ r ∈ opcodeTable, r.fits b0 = true → r.sub ≠ some (regField b1) :=
        forall₂_congr fun r hr => (not_congr (hits_iff_sub hneed hr b1)).trans not_and
      simpa [classify, classifyIn_eq_unrecognized_iff, not_unrecognizedFirst hneed,
        unrecognizedSecond_iff, hneed] using hrows

/-- Settles O6: the first byte alone, or with the field of the second. -/
theorem unrecognizedSpace : Obligations.UnrecognizedSpace := by
  intro b0 rest
  rw [decode_unrecognized_iff_ranges]
  cases rest <;> simp [UnrecognizedFirst, UnrecognizedSecond, or_assoc]

/-! ## Form IMMREG read and written back (R107) -/

/-- What the IMMREG bytes decode to. -/
theorem immReg_of_decode {b0 : Byte} (hb0 : b0 &&& 0xF0 = 0xB0) {rest : List Byte} {i : Instr}
    (h : decode (b0 :: rest) = .ok (.known i)) :
    (∃ r v, i = .movR8Imm8 r v) ∨ ∃ r v, i = .movR16Imm16 r v := by
  have ha := assembled_eq_known ((decode_immReg hb0 rest).symm.trans h)
  cases hw : b0.getLsbD 3 with
  | false =>
    rw [assembleImmReg_byte hw] at ha
    obtain ⟨v, -, rfl⟩ := Option.map_eq_some_iff.mp ha
    exact .inl ⟨_, v, rfl⟩
  | true =>
    rw [assembleImmReg_word hw] at ha
    obtain ⟨v, -, rfl⟩ := Option.map_eq_some_iff.mp ha
    exact .inr ⟨_, v, rfl⟩

/-- Settles O5: the rows and the layout are the tables' own, and the bytes are rebuilt by O3. -/
theorem immediateToRegisterRoundTrip : Obligations.ImmediateToRegisterRoundTrip := by
  refine ⟨by decide, fun _ _ => rfl, fun _ _ => rfl, fun b0 rest i hb0 h => ?_⟩
  obtain ⟨-, htake, -⟩ := encodeInvertsDecode _ i h
  exact ⟨immReg_of_decode hb0 h, htake.symm⟩

/-! ## Forms IMMACC and MOVIMMRM (R99, R101) -/

theorem arithAcc8_record (f : Family) (v : Byte) : (arithAcc8 f v).record =
    ⟨.arithmetic f .immAcc, some .w8, some (.reg (.r8 .al)), some (.imm8 v), 2⟩ := by
  cases f <;> rfl

theorem arithAcc16_record (f : Family) (v : Word) : (arithAcc16 f v).record =
    ⟨.arithmetic f .immAcc, some .w16, some (.reg (.r16 .ax)), some (.imm16 v), 3⟩ := by
  cases f <;> rfl

theorem immAcc_rows : ∀ p ∈ [((0x04 : Byte), Family.add), (0x2C, .sub), (0x3C, .cmp)],
    p.1 = arithAccByte p.2 := by decide

/-- Settles O12: by how many immediate bytes are there, after the operand for MOVIMMRM. -/
theorem immAccAndMovImmRmAssembly : Obligations.ImmAccAndMovImmRmAssembly := by
  refine ⟨fun p hp b0 hb0 => ?acc, fun b1 rest hb1 => ⟨?word, ?byte⟩⟩
  case acc =>
    have hform (rest : List Byte) := decode_immAcc p.2 (hb0.trans (immAcc_rows p hp)) rest
    refine ⟨fun hw => ?_, fun hw => ?_⟩
    · have hdecode (rest : List Byte) := (hform rest).trans
        (congrArg assembled (assembleImmAcc_byte p.2 hw rest))
      exact ⟨hdecode [], fun b1 rest => ⟨_, hdecode (b1 :: rest), arithAcc8_record p.2 b1⟩⟩
    · have hdecode (rest : List Byte) := (hform rest).trans
        (congrArg assembled (assembleImmAcc_word p.2 hw rest))
      exact ⟨hdecode [], fun b1 => hdecode [b1],
        fun b1 b2 rest => ⟨_, hdecode (b1 :: b2 :: rest), arithAcc16_record p.2 (b2 ++ b1)⟩⟩
  case word =>
    rw [isImmCode_movRm16Imm16.decode_eq rest hb1, readOperandImm]
    refine ⟨fun h => by rw [h]; rfl, fun o rest' h => ?_⟩
    rw [h, Option.bind_some]
    refine ⟨fun hshort => by rw [Machine.takeImm16_of_short hshort]; rfl, ?_⟩
    rintro lo hi tail rfl
    exact ⟨_, rfl, rfl⟩
  case byte =>
    rw [isImmCode_movRm8Imm8.decode_eq rest hb1, readOperandImm]
    refine ⟨fun h => by rw [h]; rfl, fun o rest' h => ?_⟩
    rw [h, Option.bind_some]
    refine ⟨?_, ?_⟩
    · rintro rfl
      rfl
    · rintro v tail rfl
      exact ⟨_, rfl, rfl⟩

/-! ## Form JCC (R102) -/

theorem jccInstr_record (c : Cond) (d : Byte) : (jccInstr c d).record =
    ⟨.conditionalJump c, none, some (.imm8 d), none, 2⟩ := by cases c <;> rfl

/-- Settles O14: the statement's rows are those of the jump table with the instruction of each. -/
theorem jccFormAssembly : Obligations.JccFormAssembly := by
  intro p hp
  obtain ⟨⟨b, c⟩, hrow, rfl⟩ : ∃ q ∈ jccTable, (q.1, q.2, jccInstr q.2) = p := List.mem_map.mp hp
  exact ⟨(isPlainCode_jccInstr hrow).decode_eq [],
    fun d rest => ⟨(isPlainCode_jccInstr hrow).decode_eq (d :: rest), jccInstr_record c d⟩⟩

/-! ## The effective-address table (R71) -/

/-- `mov ax, r/m` reads its operand and nothing else. -/
theorem decode_movAx {b1 : Byte} (h : regField b1 = 0) (rest : List Byte) :
    decode (0x8B :: b1 :: rest) = assembled
      ((resolve reg16Of (modField b1) (rmField b1) rest).map fun p => .movR16Rm16 .ax p.1) := by
  have hdecode := (isRmOpcode_move.code16 true).decode_eq b1 rest
  rwa [h] at hdecode

section
variable {ρ : Type} (name : BitVec 3 → ρ) (rm : BitVec 3) (rest : List Byte)

theorem resolve_zero (h : rm ≠ 6) : resolve name 0 rm rest =
    some (.mem (.ea ⟨(eaRow rm).1, (eaRow rm).2, .none⟩), rest) := by
  unfold resolve
  rw [if_neg (by decide), if_pos rfl, if_neg h]

theorem resolve_one (d : Byte) : resolve name 1 rm (d :: rest) =
    some (.mem (.ea ⟨(eaRow rm).1, (eaRow rm).2, .d8 d⟩), rest) := rfl

theorem resolve_two (lo hi : Byte) : resolve name 2 rm (lo :: hi :: rest) =
    some (.mem (.ea ⟨(eaRow rm).1, (eaRow rm).2, .d16 (joinBytes hi lo)⟩), rest) := rfl

end

theorem eaRows_zero : ∀ p ∈ [((0x00 : Byte), BaseReg.bx, some IndexReg.si), (0x01, .bx, some .di),
      (0x02, .bp, some .si), (0x03, .bp, some .di), (0x04, .si, none), (0x05, .di, none),
      (0x07, .bx, none)],
    modField p.1 = 0 ∧ regField p.1 = 0 ∧ rmField p.1 ≠ 6 ∧ eaRow (rmField p.1) = p.2 := by decide

theorem eaRows_one : ∀ p ∈ [((0x40 : Byte), BaseReg.bx, some IndexReg.si), (0x41, .bx, some .di),
      (0x42, .bp, some .si), (0x43, .bp, some .di), (0x44, .si, none), (0x45, .di, none),
      (0x46, .bp, none), (0x47, .bx, none)],
    modField p.1 = 1 ∧ regField p.1 = 0 ∧ eaRow (rmField p.1) = p.2 := by decide

theorem eaRows_two : ∀ p ∈ [((0x80 : Byte), BaseReg.bx, some IndexReg.si), (0x81, .bx, some .di),
      (0x82, .bp, some .si), (0x83, .bp, some .di), (0x84, .si, none), (0x85, .di, none),
      (0x86, .bp, none), (0x87, .bx, none)],
    modField p.1 = 2 ∧ regField p.1 = 0 ∧ eaRow (rmField p.1) = p.2 := by decide

/-- Settles O9: the fields of each row's byte, and what the resolver reads in each mode. -/
theorem effectiveAddressRows : Obligations.EffectiveAddressRows := by
  refine ⟨fun p hp rest => ?_, fun p hp d rest => ?_, fun p hp lo hi rest => ?_,
    fun lo hi rest => ?_⟩
  · obtain ⟨hmod, hreg, hrm, hrow⟩ := eaRows_zero p hp
    rw [decode_movAx hreg, hmod, resolve_zero _ _ _ hrm, hrow]
    rfl
  · obtain ⟨hmod, hreg, hrow⟩ := eaRows_one p hp
    rw [decode_movAx hreg, hmod, resolve_one, hrow]
    rfl
  · obtain ⟨hmod, hreg, hrow⟩ := eaRows_two p hp
    rw [decode_movAx hreg, hmod, resolve_two, hrow]
    rfl
  · rw [decode_movAx (by decide)]
    rfl

/-- Settles O1, by running the decoder on the fourteen literal words. -/
theorem specWordsDecode : Obligations.SpecWordsDecode := by
  unfold Obligations.SpecWordsDecode
  decide

end Sys2Proof
end

section
/-! PROOFS. The operations instructions are built from: the half views of the register file (O16),
word memory (O17), effective addresses (O18) and the ALU (O20), 10_state.md, 20_memory.md,
40_decoder.md and 42_arithmetic.md. -/

namespace Sys2Proof

theorem toNat_joinBytes (hi lo : Byte) : (joinBytes hi lo).toNat = 256 * hi.toNat + lo.toNat := by
  have hlo : lo.toNat < 2 ^ 8 := lo.isLt
  rw [joinBytes, BitVec.toNat_append, ← Nat.shiftLeft_add_eq_or_of_lt hlo, Nat.shiftLeft_eq,
    Nat.mul_comm]

theorem sext16_eq_ofInt (v : Byte) : sext16 v = BitVec.ofInt 16 v.toInt := rfl

namespace Machine

/-! ## Half views (R29) -/

theorem pointerRegisters_not_aliasable : ∀ r ∈ [Reg16.sp, .bp, .si, .di], aliasable r = false := by
  decide

/-- Settles O16: the register file refuses a view of a register without halves, and gives the
others. -/
theorem pointerRegistersHaveNoHalves : Obligations.PointerRegistersHaveNoHalves := by
  refine ⟨fun r hr f h v => ?_, fun f r v => ⟨f.readHalf_view r, f.writeHalf_view r v⟩⟩
  have halias := pointerRegisters_not_aliasable r hr
  simp [RegFile.readHalf, RegFile.writeHalf, halias]

/-! ## Word memory (R46, R48) -/

theorem word_ne_next (a : Word) : a ≠ a + 1 := by bv_omega

theorem next_eq_ofNat (a : Word) : a + 1 = BitVec.ofNat 16 ((a.toNat + 1) % 65536) := by bv_omega

/-- The word that two byte writes leave at an address. -/
theorem Memory.read16_write8_write8 (m : Memory) (a : Word) (p q : Byte) :
    ((m.write8 a p).write8 (a + 1) q).read16 a = joinBytes q p := by
  rw [Memory.read16, Memory.read8_write8_same, Memory.read8_write8_other _ _ _ _ (word_ne_next a),
    Memory.read8_write8_same]

theorem Memory.read16_write16_same (m : Memory) (a v : Word) : (m.write16 a v).read16 a = v := by
  rw [Memory.write16, Memory.read16_write8_write8, joinBytes_high_low]

theorem Memory.read8_write16_low (m : Memory) (a v : Word) :
    (m.write16 a v).read8 a = lowByte v := by
  rw [Memory.write16, Memory.read8_write8_other _ _ _ _ (word_ne_next a), Memory.read8_write8_same]

theorem Memory.read8_write16_high (m : Memory) (a v : Word) :
    (m.write16 a v).read8 (a + 1) = highByte v := by
  rw [Memory.write16, Memory.read8_write8_same]

/-- Settles O17: each clause is a read after a write, and the word's value that of its two bytes. -/
theorem wordMemoryIsLittleEndian : Obligations.WordMemoryIsLittleEndian := by
  intro m a
  refine ⟨?_, fun v => ⟨m.read16_write16_same a v, ?_, ?_, fun b => m.read8_write16_other a b v⟩,
    fun p q => ?_⟩
  · rw [Memory.read16, toNat_joinBytes, next_eq_ofNat]
  · rw [Memory.read8_write16_low]
    exact Half.toNat_low_of v
  · rw [Memory.read8_write16_high]
    exact Half.toNat_high_of v
  · rw [Memory.read16_write8_write8, toNat_joinBytes]

/-! ## Effective addresses (R92) -/

theorem ofInt_toNat (v : Word) : BitVec.ofInt 16 (v.toNat : Int) = v := by simp

/-- Settles O18: the word sum is the integer sum's word, share by share. -/
theorem effectiveAddressSum : Obligations.EffectiveAddressSum := by
  refine fun f => ⟨fun b x d => ?_, fun a => rfl⟩
  rw [address, BitVec.ofInt_add, BitVec.ofInt_add]
  refine congrArg₂ (· + ·) (congrArg₂ (· + ·) ?base ?index) ?disp
  case base => cases b <;> exact (ofInt_toNat _).symm
  case index =>
    cases x with
    | none => rfl
    | some i => cases i <;> exact (ofInt_toNat _).symm
  case disp =>
    cases d with
    | none => rfl
    | d8 v => exact sext16_eq_ofInt v
    | d16 v => exact (ofInt_toNat v).symm

/-! ## The ALU (R119 to R122) -/

theorem zeroFlag_iff {n : Nat} (r : BitVec n) : zeroFlag r = true ↔ r.toNat = 0 := by
  simp [zeroFlag, BitVec.toNat_eq]

theorem signFlag_iff {n : Nat} (r : BitVec n) :
    signFlag r = true ↔ 2 ^ (n - 1) ≤ r.toNat := by
  simp [signFlag, BitVec.msb_eq_decide]

theorem writesBack_iff (f : Family) : writesBack f = true ↔ f ≠ .cmp := by cases f <;> decide

theorem toNat_sub_eq_add_sub {n : Nat} (a b : BitVec n) :
    (a - b).toNat = (a.toNat + 2 ^ n - b.toNat) % 2 ^ n := by
  have hb := b.isLt
  rw [BitVec.toNat_sub, ← Nat.sub_add_comm hb.le, Nat.add_comm]

/-- Settles O20, from the result's value and what the flags say of it. -/
theorem aluResultsAndFlags : Obligations.AluResultsAndFlags := by
  refine fun n a b _ => ⟨BitVec.toNat_add a b, ?_, fun f =>
    ⟨zeroFlag_iff _, signFlag_iff _, writesBack_iff f⟩⟩
  simp only [List.forall_mem_cons, List.not_mem_nil, false_implies, implies_true, and_true]
  exact ⟨toNat_sub_eq_add_sub a b, toNat_sub_eq_add_sub a b⟩

end Machine

end Sys2Proof
end

section
/-! PROOFS. The next state of every instruction, 41_move.md, 42_arithmetic.md and 43_jump.md: Moves
(O21 to O23), arithmetic (O25 to O32) and jumps (O34). -/

namespace Sys2Proof.Machine

open Sys2Proof.Claims

/-! ## Moves (R111 to R118) -/

/-- Settles O21: each is the shared Move into the register, from its own source. -/
theorem byteMovesToRegister : Obligations.ByteMovesToRegister := fun s d q m v =>
  ⟨execMove8_eq (.reg d) (.rm (.reg q)) 2 s, execMove8_eq (.reg d) (.rm (.reg q)) 2 s,
    execMove8_eq (.reg d) (.rm (.mem m)) (2 + m.dispLen) s, execMove8_eq (.reg d) (.imm v) 2 s,
    execMove8_eq (.reg d) (.imm v) 3 s⟩

/-- Settles O22: each is the shared Move into the register, from its own source. -/
theorem wordMovesToRegister : Obligations.WordMovesToRegister := fun s d q m v =>
  ⟨execMove16_eq (.reg d) (.rm (.reg q)) 2 s, execMove16_eq (.reg d) (.rm (.reg q)) 2 s,
    execMove16_eq (.reg d) (.rm (.mem m)) (2 + m.dispLen) s, execMove16_eq (.reg d) (.imm v) 3 s,
    execMove16_eq (.reg d) (.imm v) 4 s⟩

theorem execMovRm8Imm8_store8 {s : State} (h : s.config.movbMem = .store8) (dst : Rm8) (v : Byte) :
    exec (.movRm8Imm8 dst v) s = execMove8 dst (.imm v) (Instr.len (.movRm8Imm8 dst v)) s := by
  simp [exec, execMovRm8Imm8, h]

theorem execMovRm8Imm8_refuse {s : State} (h : s.config.movbMem = .refuse) (m : MemRef) (v : Byte) :
    exec (.movRm8Imm8 (.mem m) v) s = .next (unsupported s) := by
  simp [exec, execMovRm8Imm8, isMem, h, raise, State.halt, unsupported]

/-- The length of an instruction with a memory operand and `n` bytes of immediate. -/
theorem count_mem_add {ρ : Type} (m : MemRef) (n : Nat) :
    (Rm.mem m : Rm ρ).count + n = 2 + n + m.dispLen := by
  rw [Rm.count]
  omega

/-- Settles O23: each is the shared Move into memory; the byte immediate form reaches it under
`store8`. -/
theorem movesToMemory : Obligations.MovesToMemory := by
  refine fun s m q q' v v' => ⟨execMove8_eq (.mem m) (.rm (.reg q)) (2 + m.dispLen) s,
    execMove16_eq (.mem m) (.rm (.reg q')) (2 + m.dispLen) s, fun h => ?byte, ?word⟩
  case byte =>
    rw [execMovRm8Imm8_store8 h, Instr.len, count_mem_add]
    exact execMove8_eq (.mem m) (.imm v) (3 + m.dispLen) s
  case word =>
    rw [exec_movRm16Imm16, Instr.len, count_mem_add]
    exact execMove16_eq (.mem m) (.imm v') (4 + m.dispLen) s

/-! ## Arithmetic (R119 to R124) -/

theorem zeroFlag_eq {n : Nat} (r : BitVec n) : zeroFlag r = decide (r.toNat = 0) := by
  rw [Bool.eq_iff_iff, zeroFlag_iff, decide_eq_true_iff]

theorem signFlag_byte (r : Byte) : signFlag r = decide (128 ≤ r.toNat) := by
  rw [Bool.eq_iff_iff, signFlag_iff, decide_eq_true_iff]
  exact Iff.rfl

theorem signFlag_word (r : Word) : signFlag r = decide (32768 ≤ r.toNat) := by
  rw [Bool.eq_iff_iff, signFlag_iff, decide_eq_true_iff]
  exact Iff.rfl

theorem execArith8_reg_eq {f : Family} (hf : f ≠ .cmp) {s : State} (hc : s.config.arith8 = .native8)
    (d : Reg8) (src : Src8) (n : Nat) : execArith8 f (.reg d) src n s =
      .next (arith8 s d (aluResult f (s.regs.get8 d) (value8 s src)) n) := by
  rw [execArith8_reg f d src n s hc hf, zeroFlag_eq, signFlag_byte]
  rfl

theorem execArith16_reg_eq {f : Family} (hf : f ≠ .cmp) (s : State) (d : Reg16) (src : Src16)
    (n : Nat) : execArith16 f (.reg d) src n s =
      .next (arith16 s d (aluResult f (s.regs.get16 d) (value16 s src)) n) := by
  rw [execArith16_reg f d src n s hf, zeroFlag_eq, signFlag_word]
  rfl

theorem execArith8_cmp_eq {s : State} (hc : s.config.arith8 = .native8) (dst : Rm8) (src : Src8)
    (n : Nat) : execArith8 .cmp dst src n s =
      .next (compare8 s (readRm8 s dst - value8 s src) n) := by
  rw [execArith8_cmp dst src n s hc, zeroFlag_eq, signFlag_byte]
  rfl

theorem execArith16_cmp_eq (s : State) (dst : Rm16) (src : Src16) (n : Nat) :
    execArith16 .cmp dst src n s = .next (compare16 s (readRm16 s dst - value16 s src) n) := by
  rw [execArith16_cmp dst src n s, zeroFlag_eq, signFlag_word]
  rfl

/-- Settles O25: each is the shared Add into its register. -/
theorem byteAdds : Obligations.ByteAdds := fun s d q o v hc =>
  have add (d : Reg8) (src : Src8) (n : Nat) :=
    execArith8_reg_eq (f := .add) (by decide) hc d src n
  ⟨add d (.rm (.reg q)) 2, add d (.rm o) o.count, add .al (.imm v) 2, add d (.imm v) 3,
    add d (.imm v) 3⟩

/-- Settles O26: each is the shared Add into its register. -/
theorem wordAdds : Obligations.WordAdds := fun s d q o v b =>
  have add (d : Reg16) (src : Src16) (n : Nat) :=
    execArith16_reg_eq (f := .add) (by decide) s d src n
  ⟨add d (.rm (.reg q)) 2, add d (.rm o) o.count, add .ax (.imm v) 3, add d (.imm v) 4,
    add d (.immSext b) 3⟩

/-- Settles O27: each is the shared Subtract from its register. -/
theorem byteSubtracts : Obligations.ByteSubtracts := fun s d q o v hc =>
  have sub (d : Reg8) (src : Src8) (n : Nat) :=
    execArith8_reg_eq (f := .sub) (by decide) hc d src n
  ⟨sub d (.rm (.reg q)) 2, sub d (.rm o) o.count, sub .al (.imm v) 2, sub d (.imm v) 3,
    sub d (.imm v) 3⟩

/-- Settles O28: each is the shared Subtract from its register. -/
theorem wordSubtracts : Obligations.WordSubtracts := fun s d q o v b =>
  have sub (d : Reg16) (src : Src16) (n : Nat) :=
    execArith16_reg_eq (f := .sub) (by decide) s d src n
  ⟨sub d (.rm (.reg q)) 2, sub d (.rm o) o.count, sub .ax (.imm v) 3, sub d (.imm v) 4,
    sub d (.immSext b) 3⟩

/-- Settles O29: each is the shared Compare of its operands. -/
theorem byteCompares : Obligations.ByteCompares := fun _ d q o v hc =>
  have cmp := execArith8_cmp_eq hc
  ⟨cmp o (.rm (.reg q)) o.count, cmp (.reg d) (.rm o) o.count, cmp (.reg .al) (.imm v) 2,
    cmp o (.imm v) (o.count + 1), cmp o (.imm v) (o.count + 1)⟩

/-- Settles O30: each is the shared Compare of its operands. -/
theorem wordCompares : Obligations.WordCompares := fun s d q o v b =>
  have cmp := execArith16_cmp_eq s
  ⟨cmp o (.rm (.reg q)) o.count, cmp (.reg d) (.rm o) o.count, cmp (.reg .ax) (.imm v) 3,
    cmp o (.imm v) (o.count + 2), cmp o (.immSext b) (o.count + 1)⟩

/-! ## Refusals (R117, R123, R124) -/

theorem exec_memory8_refused {i : Instr} {f : Family} {v : ArithVariant} {m : MemRef} {src : Src8}
    (h : i.record = record8 (.arithmetic f v) (.mem m) src i.len) (hf : f ≠ .cmp) (s : State) :
    exec i s = .next (unsupported s) :=
  (exec_of_arith8 h s).trans (execArith8_mem f m src i.len s hf)

theorem exec_memory16_refused {i : Instr} {f : Family} {v : ArithVariant} {m : MemRef} {src : Src16}
    (h : i.record = record16 (.arithmetic f v) (.mem m) src i.len) (hf : f ≠ .cmp) (s : State) :
    exec i s = .next (unsupported s) :=
  (exec_of_arith16 h s).trans (execArith16_mem f m src i.len s hf)

/-- Settles O31: the record of each names its family and its memory destination. -/
theorem memoryDestinationRefused : Obligations.MemoryDestinationRefused := by
  intro s m q q' v v'
  have hadd : Family.add ≠ .cmp := by decide
  have hsub : Family.sub ≠ .cmp := by decide
  simp only [List.forall_mem_cons, List.not_mem_nil, false_implies, implies_true, and_true]
  exact ⟨exec_memory8_refused rfl hadd s, exec_memory16_refused rfl hadd s,
    exec_memory8_refused rfl hadd s, exec_memory16_refused rfl hadd s,
    exec_memory8_refused rfl hadd s, exec_memory16_refused rfl hadd s,
    exec_memory8_refused rfl hsub s, exec_memory16_refused rfl hsub s,
    exec_memory8_refused rfl hsub s, exec_memory16_refused rfl hsub s,
    exec_memory8_refused rfl hsub s, exec_memory16_refused rfl hsub s⟩

/-- Settles O32: an arithmetic record of width 8 belongs to the shared execution that the parameter
refuses. -/
theorem parameterRefusals : Obligations.ParameterRefusals := by
  refine ⟨fun s i hc ⟨f, v, hop⟩ hw => ?_, fun s m v h => execMovRm8Imm8_refuse h m v⟩
  rcases exec_shape i s with ⟨_, _, _, hr, -⟩ | ⟨_, _, _, hr, -⟩ | ⟨_, _, dst, src, -, e⟩ |
    ⟨_, _, _, _, hr, -⟩ | ⟨_, _, hr, -⟩ | ⟨_, _, rfl, -, -⟩
  case inr.inr.inl => exact e.trans (execArith8_refused _ dst src i.len s hc)
  case inr.inr.inr.inr.inr => cases hop
  case inr.inr.inr.inl => rw [hr] at hw; cases hw
  all_goals (rw [hr] at hop; cases hop)

/-! ## Jumps (R156 to R158) -/

theorem jumpTarget_eq (s : State) (d : Byte) :
    jumpTarget s d = BitVec.ofInt 16 ((s.ip.toNat : Int) + 2 + d.toInt) := by
  rw [jumpTarget, State.ipNext, BitVec.ofInt_add, BitVec.ofInt_add, ofInt_toNat, sext16_eq_ofInt]
  rfl

theorem ipNext_two_eq (s : State) : s.ipNext 2 = BitVec.ofInt 16 ((s.ip.toNat : Int) + 2) := by
  rw [State.ipNext, BitVec.ofInt_add, ofInt_toNat]
  rfl

/-- A jump whose condition the flags decide. -/
theorem execJcc_of_condition {c : Cond} {s : State} {b : Bool} (h : condition c s.zf s.sf = some b)
    (d : Byte) : execJcc c d s = .next { s with ip := BitVec.ofInt 16 ((s.ip.toNat : Int) + 2 +
      if b = true then d.toInt else 0) } := by
  cases b with
  | true =>
    rw [execJcc, h, jumpTarget_eq]
    rfl
  | false =>
    rw [execJcc, h, State.advance, ipNext_two_eq]
    simp [State.setIp]

/-- Settles O34: the flag, or its negation, decides. -/
theorem evaluableJumps : Obligations.EvaluableJumps := by
  refine fun s d => ⟨execJcc_of_condition (c := .e) rfl d, ?_,
    execJcc_of_condition (c := .s) rfl d, ?_⟩
  · simpa using execJcc_of_condition (c := .ne) (s := s) rfl d
  · simpa using execJcc_of_condition (c := .ns) (s := s) rfl d

end Sys2Proof.Machine
end

section
/-! PROOFS. Add then Subtract (O33), and the frames: what Moves (O36 to O38), arithmetic (O39 to
O41) and jumps (O42) leave unchanged, 41_move.md, 42_arithmetic.md and 43_jump.md. -/

namespace Sys2Proof.Machine

open Sys2Proof.Claims

/-! ## Writing a register twice, and writing back what was read -/

@[simp] theorem RegFile.set16_set16 (f : RegFile) (r : Reg16) (v w : Word) :
    (f.set16 r v).set16 r w = f.set16 r w := by cases r <;> rfl

@[simp] theorem RegFile.set16_get16 (f : RegFile) (r : Reg16) : f.set16 r (f.get16 r) = f := by
  cases r <;> rfl

@[simp] theorem Half.replace_replace (h : Half) (v : Word) (b c : Byte) :
    h.replace (h.replace v b) c = h.replace v c := by
  cases h <;> simp [Half.replace]

@[simp] theorem Half.replace_of (h : Half) (v : Word) : h.replace v (h.of v) = v := by
  cases h <;> simp [Half.replace, Half.of]

@[simp] theorem RegFile.set8_set8 (f : RegFile) (r : Reg8) (v w : Byte) :
    (f.set8 r v).set8 r w = f.set8 r w := by
  simp [RegFile.set8]

@[simp] theorem RegFile.set8_get8 (f : RegFile) (r : Reg8) : f.set8 r (f.get8 r) = f := by
  simp [RegFile.set8, RegFile.get8]

/-! ## Add then Subtract -/

theorem decide_toNat_eq_zero {n : Nat} (r : BitVec n) : decide (r.toNat = 0) = decide (r = 0) := by
  simp [BitVec.toNat_eq]

/-- What is left of `s` when `u` comes after an Add and a Subtract into a register that held `r`. -/
def Restores {n : Nat} (r : BitVec n) (s u : State) : Prop :=
  u.regs = s.regs ∧ u.mem = s.mem ∧ u.zf = decide (r = 0) ∧ u.sf = r.msb

theorem arith8_restores {s t u : State} {d : Reg8} {x : Byte} {n m : Nat}
    (ht : t = arith8 s d (s.regs.get8 d + x) n) (hu : u = arith8 t d (t.regs.get8 d - x) m) :
    Restores (s.regs.get8 d) s u := by
  have hback : t.regs.get8 d - x = s.regs.get8 d := by simp [ht, arith8]
  rw [hback] at hu
  subst hu ht
  exact ⟨by simp [arith8], rfl, decide_toNat_eq_zero _, (signFlag_byte _).symm⟩

theorem arith16_restores {s t u : State} {d : Reg16} {x : Word} {n m : Nat}
    (ht : t = arith16 s d (s.regs.get16 d + x) n) (hu : u = arith16 t d (t.regs.get16 d - x) m) :
    Restores (s.regs.get16 d) s u := by
  have hback : t.regs.get16 d - x = s.regs.get16 d := by simp [ht, arith16]
  rw [hback] at hu
  subst hu ht
  exact ⟨by simp [arith16], rfl, decide_toNat_eq_zero _, (signFlag_word _).symm⟩

/-- Settles O33: the records name the two executions, and subtracting what was added restores. -/
theorem addThenSubtractRestores : Obligations.AddThenSubtractRestores := by
  have hadd : Family.add ≠ .cmp := by decide
  have hsub : Family.sub ≠ .cmp := by decide
  refine ⟨fun s d i j v w a b hi hj => ?word, fun s d i j v w a b hc hi hj => ?byte⟩
  case word =>
    refine ⟨_, (exec_of_arith16 hi s).trans (execArith16_reg_eq hadd s d a i.len), fun hval =>
      ⟨_, (exec_of_arith16 hj _).trans (execArith16_reg_eq hsub _ d b j.len), ?_⟩⟩
    rw [hval]
    exact arith16_restores rfl rfl
  case byte =>
    refine ⟨_, (exec_of_arith8 hi s).trans (execArith8_reg_eq hadd hc d a i.len), fun hval =>
      ⟨_, (exec_of_arith8 hj _).trans
        (execArith8_reg_eq (s := arith8 s d _ i.len) hsub hc d b j.len), ?_⟩⟩
    rw [hval]
    exact arith8_restores rfl rfl

/-! ## What a register write leaves unchanged -/

theorem RegFile.get8_set16_other (f : RegFile) (r : Reg16) (q : Reg8) (v : Word)
    (h : cellOf q ≠ r) : (f.set16 r v).get8 q = f.get8 q := by
  rw [RegFile.get8, RegFile.get16_set16, if_neg h, RegFile.get8]

theorem keepsRegsBut8_of_regs {s t : State} {d : Reg8} {v : Byte} (h : t.regs = s.regs.set8 d v) :
    KeepsRegsBut8 d s t := by
  rw [KeepsRegsBut8, h]
  exact ⟨fun q hq => s.regs.get8_set8_other d q v hq, fun q hq => s.regs.get16_set8_other d q v hq⟩

theorem keepsRegsBut16_of_regs {s t : State} {d : Reg16} {v : Word}
    (h : t.regs = s.regs.set16 d v) : KeepsRegsBut16 d s t := by
  rw [KeepsRegsBut16, h]
  exact ⟨fun q hq => (s.regs.get16_set16 d q v).trans (if_neg hq),
    fun q hq => s.regs.get8_set16_other d q v hq⟩

theorem keepsRegs_of_regs {s t : State} (h : t.regs = s.regs) : KeepsRegs s t := by
  rw [KeepsRegs, h]
  exact ⟨fun _ => rfl, fun _ => rfl⟩

theorem keepsRegsBut8_of_keepsRegs {s t : State} (h : KeepsRegs s t) (d : Reg8) :
    KeepsRegsBut8 d s t :=
  ⟨fun q _ => h.2 q, fun q _ => h.1 q⟩

theorem keepsRegsBut16_of_keepsRegs {s t : State} (h : KeepsRegs s t) (d : Reg16) :
    KeepsRegsBut16 d s t :=
  ⟨fun q _ => h.1 q, fun q _ => h.2 q⟩

theorem keepsMemory_of_mem {s t : State} (h : t.mem = s.mem) : KeepsMemory s t :=
  fun _ => by rw [h]

/-- Halting with Unsupported-Operation is within every frame. -/
theorem unsupported_keeps (s : State) : KeepsRegs s (unsupported s) ∧ KeepsFlags s (unsupported s) ∧
    KeepsMemory s (unsupported s) ∧ KeepsRest s (unsupported s) :=
  ⟨keepsRegs_of_regs rfl, ⟨rfl, rfl⟩, keepsMemory_of_mem rfl, rfl, rfl, rfl, .inr rfl⟩

/-! ## Moves -/

theorem execMove8_reg_frame {d : Reg8} {src : Src8} {n : Nat} {s t : State}
    (h : execMove8 (.reg d) src n s = .next t) :
    KeepsRegsBut8 d s t ∧ KeepsFlags s t ∧ KeepsMemory s t ∧ KeepsRest s t := by
  cases (execMove8_eq (.reg d) src n s).symm.trans h
  exact ⟨keepsRegsBut8_of_regs rfl, ⟨rfl, rfl⟩, keepsMemory_of_mem rfl, rfl, rfl, rfl, .inl rfl⟩

theorem execMove16_reg_frame {d : Reg16} {src : Src16} {n : Nat} {s t : State}
    (h : execMove16 (.reg d) src n s = .next t) :
    KeepsRegsBut16 d s t ∧ KeepsFlags s t ∧ KeepsMemory s t ∧ KeepsRest s t := by
  cases (execMove16_eq (.reg d) src n s).symm.trans h
  exact ⟨keepsRegsBut16_of_regs rfl, ⟨rfl, rfl⟩, keepsMemory_of_mem rfl, rfl, rfl, rfl, .inl rfl⟩

theorem execMove8_mem_frame {m : MemRef} {src : Src8} {n : Nat} {s t : State}
    (h : execMove8 (.mem m) src n s = .next t) : KeepsRegs s t ∧ KeepsFlags s t ∧ KeepsRest s t ∧
      ∀ b, b ≠ address s.regs m → t.mem.read8 b = s.mem.read8 b := by
  cases (execMove8_eq (.mem m) src n s).symm.trans h
  exact ⟨keepsRegs_of_regs rfl, ⟨rfl, rfl⟩, ⟨rfl, rfl, rfl, .inl rfl⟩,
    fun b hb => s.mem.read8_write8_other _ b _ hb⟩

theorem execMove16_mem_frame {m : MemRef} {src : Src16} {n : Nat} {s t : State}
    (h : execMove16 (.mem m) src n s = .next t) : KeepsRegs s t ∧ KeepsFlags s t ∧ KeepsRest s t ∧
      ∀ b, b ≠ address s.regs m → b ≠ address s.regs m + 1 → t.mem.read8 b = s.mem.read8 b := by
  cases (execMove16_eq (.mem m) src n s).symm.trans h
  exact ⟨keepsRegs_of_regs rfl, ⟨rfl, rfl⟩, ⟨rfl, rfl, rfl, .inl rfl⟩,
    fun b hb hb' => s.mem.read8_write16_other _ b _ hb hb'⟩

/-- The byte immediate move into memory, stored or refused. -/
theorem execMovRm8Imm8_mem_frame {m : MemRef} {v : Byte} {s t : State}
    (h : exec (.movRm8Imm8 (.mem m) v) s = .next t) :
    KeepsRegs s t ∧ KeepsFlags s t ∧ KeepsRest s t ∧
      ∀ b, b ≠ address s.regs m → t.mem.read8 b = s.mem.read8 b := by
  cases hc : s.config.movbMem with
  | store8 => exact execMove8_mem_frame ((execMovRm8Imm8_store8 hc (.mem m) v).symm.trans h)
  | refuse =>
    cases (execMovRm8Imm8_refuse hc m v).symm.trans h
    obtain ⟨hregs, hflags, hmem, hrest⟩ := unsupported_keeps s
    exact ⟨hregs, hflags, hrest, fun b _ => hmem b⟩

/-- Settles O36: each is the shared Move into the register. -/
theorem byteMoveToRegisterFrame : Obligations.ByteMoveToRegisterFrame := by
  intro s t d q o v
  simp only [List.forall_mem_cons, List.not_mem_nil, false_implies, implies_true, and_true,
    exec_movRm8R8, exec_movR8Rm8, exec_movR8Imm8, exec_movRm8Imm8, isMem, Bool.false_and,
    Bool.false_eq_true, if_false]
  exact ⟨execMove8_reg_frame, execMove8_reg_frame, execMove8_reg_frame, execMove8_reg_frame⟩

/-- Settles O37: each is the shared Move into the register. -/
theorem wordMoveToRegisterFrame : Obligations.WordMoveToRegisterFrame := by
  intro s t d q o v
  simp only [List.forall_mem_cons, List.not_mem_nil, false_implies, implies_true, and_true,
    exec_movRm16R16, exec_movR16Rm16, exec_movR16Imm16, exec_movRm16Imm16]
  exact ⟨execMove16_reg_frame, execMove16_reg_frame, execMove16_reg_frame, execMove16_reg_frame⟩

/-- Settles O38: each is the shared Move into memory, or the byte immediate one. -/
theorem moveToMemoryFrame : Obligations.MoveToMemoryFrame := by
  rintro s t m q q' v v' _ rfl
  simp only [List.forall_mem_cons, List.not_mem_nil, false_implies, implies_true, and_true]
  exact ⟨⟨execMove8_mem_frame, execMovRm8Imm8_mem_frame⟩, execMove16_mem_frame,
    execMove16_mem_frame⟩

/-! ## Arithmetic -/

theorem exec_arith8_reg_frame {i : Instr} {f : Family} {v : ArithVariant} {d : Reg8}
    {src : Src8} {s t : State} (hr : i.record = record8 (.arithmetic f v) (.reg d) src i.len)
    (h : exec i s = .next t) : KeepsRegsBut8 d s t ∧ KeepsMemory s t ∧ KeepsRest s t := by
  rw [exec_of_arith8 hr] at h
  rcases execArith8_cases f (.reg d) src i.len s with e | ⟨z, g, ⟨-, e⟩ | ⟨r, v, hreg, e⟩⟩ <;>
    cases e.symm.trans h
  · obtain ⟨hregs, -, hmem, hrest⟩ := unsupported_keeps s
    exact ⟨keepsRegsBut8_of_keepsRegs hregs d, hmem, hrest⟩
  · exact ⟨keepsRegsBut8_of_keepsRegs (keepsRegs_of_regs rfl) d, keepsMemory_of_mem rfl,
      rfl, rfl, rfl, .inl rfl⟩
  · cases hreg
    exact ⟨keepsRegsBut8_of_regs rfl, keepsMemory_of_mem rfl, rfl, rfl, rfl, .inl rfl⟩

theorem exec_arith16_reg_frame {i : Instr} {f : Family} {v : ArithVariant} {d : Reg16}
    {src : Src16} {s t : State} (hr : i.record = record16 (.arithmetic f v) (.reg d) src i.len)
    (h : exec i s = .next t) : KeepsRegsBut16 d s t ∧ KeepsMemory s t ∧ KeepsRest s t := by
  rw [exec_of_arith16 hr] at h
  rcases execArith16_cases f (.reg d) src i.len s with e | ⟨z, g, ⟨-, e⟩ | ⟨r, v, hreg, e⟩⟩ <;>
    cases e.symm.trans h
  · obtain ⟨hregs, -, hmem, hrest⟩ := unsupported_keeps s
    exact ⟨keepsRegsBut16_of_keepsRegs hregs d, hmem, hrest⟩
  · exact ⟨keepsRegsBut16_of_keepsRegs (keepsRegs_of_regs rfl) d, keepsMemory_of_mem rfl,
      rfl, rfl, rfl, .inl rfl⟩
  · cases hreg
    exact ⟨keepsRegsBut16_of_regs rfl, keepsMemory_of_mem rfl, rfl, rfl, rfl, .inl rfl⟩

/-- Settles O39: each is a shared arithmetic execution into its register. -/
theorem byteArithmeticFrame : Obligations.ByteArithmeticFrame := by
  intro s t d q o v
  simp only [List.forall_mem_cons, List.not_mem_nil, false_implies, implies_true, and_true]
  exact ⟨⟨exec_arith8_reg_frame rfl, exec_arith8_reg_frame rfl, exec_arith8_reg_frame rfl,
    exec_arith8_reg_frame rfl, exec_arith8_reg_frame rfl, exec_arith8_reg_frame rfl,
    exec_arith8_reg_frame rfl, exec_arith8_reg_frame rfl⟩, exec_arith8_reg_frame rfl,
    exec_arith8_reg_frame rfl⟩

/-- Settles O40: each is a shared arithmetic execution into its register. -/
theorem wordArithmeticFrame : Obligations.WordArithmeticFrame := by
  intro s t d q o v b
  simp only [List.forall_mem_cons, List.not_mem_nil, false_implies, implies_true, and_true]
  exact ⟨⟨exec_arith16_reg_frame rfl, exec_arith16_reg_frame rfl, exec_arith16_reg_frame rfl,
    exec_arith16_reg_frame rfl, exec_arith16_reg_frame rfl, exec_arith16_reg_frame rfl,
    exec_arith16_reg_frame rfl, exec_arith16_reg_frame rfl⟩, exec_arith16_reg_frame rfl,
    exec_arith16_reg_frame rfl⟩

theorem execArith8_cmp_frame {dst : Rm8} {src : Src8} {n : Nat} {s t : State}
    (h : execArith8 .cmp dst src n s = .next t) :
    KeepsRegs s t ∧ KeepsMemory s t ∧ KeepsRest s t := by
  cases hc : s.config.arith8 with
  | refuse =>
    cases (execArith8_refused .cmp dst src n s hc).symm.trans h
    obtain ⟨hregs, -, hmem, hrest⟩ := unsupported_keeps s
    exact ⟨hregs, hmem, hrest⟩
  | native8 =>
    cases (execArith8_cmp dst src n s hc).symm.trans h
    exact ⟨keepsRegs_of_regs rfl, keepsMemory_of_mem rfl, rfl, rfl, rfl, .inl rfl⟩

theorem execArith16_cmp_frame {dst : Rm16} {src : Src16} {n : Nat} {s t : State}
    (h : execArith16 .cmp dst src n s = .next t) :
    KeepsRegs s t ∧ KeepsMemory s t ∧ KeepsRest s t := by
  cases (execArith16_cmp dst src n s).symm.trans h
  exact ⟨keepsRegs_of_regs rfl, keepsMemory_of_mem rfl, rfl, rfl, rfl, .inl rfl⟩

/-- Settles O41: a record of the Compare family belongs to one of the two shared executions. -/
theorem compareFrame : Obligations.CompareFrame := by
  intro s t i v hop h
  rcases exec_shape i s with ⟨_, _, _, hr, -⟩ | ⟨_, _, _, hr, -⟩ | ⟨_, _, dst, src, hr, e⟩ |
    ⟨_, _, dst, src, hr, e⟩ | ⟨_, _, hr, -⟩ | ⟨_, _, rfl, -, -⟩
  case inr.inr.inr.inr.inr => cases hop
  all_goals (rw [hr] at hop; cases hop)
  · exact execArith8_cmp_frame (e.symm.trans h)
  · exact execArith16_cmp_frame (e.symm.trans h)

/-! ## Jumps -/

theorem execJcc_frame {c : Cond} {d : Byte} {s t : State} (h : execJcc c d s = .next t) :
    KeepsRegs s t ∧ KeepsFlags s t ∧ KeepsMemory s t ∧ KeepsRest s t := by
  rcases execJcc_cases c d s with ⟨-, e⟩ | ⟨-, e⟩ | ⟨-, e⟩ <;> cases e.symm.trans h
  · exact unsupported_keeps s
  · exact ⟨keepsRegs_of_regs rfl, ⟨rfl, rfl⟩, keepsMemory_of_mem rfl, rfl, rfl, rfl, .inl rfl⟩
  · exact ⟨keepsRegs_of_regs rfl, ⟨rfl, rfl⟩, keepsMemory_of_mem rfl, rfl, rfl, rfl, .inl rfl⟩

/-- Settles O42: a jump's record belongs to the shared execution of the jumps. -/
theorem jumpFrame : Obligations.JumpFrame := by
  rintro s t i ⟨c, hop⟩ h
  rcases exec_shape i s with ⟨_, _, _, hr, -⟩ | ⟨_, _, _, hr, -⟩ | ⟨_, _, _, _, hr, -⟩ |
    ⟨_, _, _, _, hr, -⟩ | ⟨_, _, -, e⟩ | ⟨_, _, rfl, -, -⟩
  case inr.inr.inr.inr.inl => exact execJcc_frame (e.symm.trans h)
  case inr.inr.inr.inr.inr => cases hop
  all_goals (rw [hr] at hop; cases hop)

end Sys2Proof.Machine
end

section
/-! PROOFS. Rules over all instructions: who writes and who reads the flags (O43), 10_state.md
section 4, and the causes of Unsupported-Operation (O46), 60_exceptions.md section 2. -/

namespace Sys2Proof.Machine

open Sys2Proof.Claims

/-! ## Flag writers (R34) -/

/-- An instruction that is not arithmetic writes no flag. -/
theorem exec_keepsFlags {i : Instr} {s t : State} (h : exec i s = .next t) (hi : ¬ IsArithmetic i) :
    KeepsFlags s t := by
  rcases exec_shape i s with ⟨_, dst, src, -, e⟩ | ⟨_, dst, src, -, e⟩ | ⟨f, v, _, _, hr, -⟩ |
    ⟨f, v, _, _, hr, -⟩ | ⟨c, d, -, e⟩ | ⟨_, _, -, -, e⟩
  · cases (e.trans (execMove8_eq dst src _ s)).symm.trans h
    obtain ⟨-, hzf, hsf, -⟩ := writeRm8_keeps s dst (value8 s src)
    exact ⟨hzf, hsf⟩
  · cases (e.trans (execMove16_eq dst src _ s)).symm.trans h
    obtain ⟨-, hzf, hsf, -⟩ := writeRm16_keeps s dst (value16 s src)
    exact ⟨hzf, hsf⟩
  · exact absurd ⟨f, v, by rw [hr]; rfl⟩ hi
  · exact absurd ⟨f, v, by rw [hr]; rfl⟩ hi
  · obtain ⟨-, hflags, -⟩ := execJcc_frame (e.symm.trans h)
    exact hflags
  · cases e.symm.trans h
    exact ⟨rfl, rfl⟩

/-! ## Flag readers: reads ignore the flags, and writes keep them apart -/

@[simp] theorem readRm8_setFlags (s : State) (z g : Bool) (o : Rm8) :
    readRm8 (s.setFlags z g) o = readRm8 s o := by cases o <;> rfl

@[simp] theorem readRm16_setFlags (s : State) (z g : Bool) (o : Rm16) :
    readRm16 (s.setFlags z g) o = readRm16 s o := by cases o <;> rfl

@[simp] theorem value8_setFlags (s : State) (z g : Bool) (q : Src8) :
    value8 (s.setFlags z g) q = value8 s q := by
  cases q with
  | rm o => exact readRm8_setFlags s z g o
  | imm v => rfl

@[simp] theorem value16_setFlags (s : State) (z g : Bool) (q : Src16) :
    value16 (s.setFlags z g) q = value16 s q := by
  cases q with
  | rm o => exact readRm16_setFlags s z g o
  | imm v => rfl
  | immSext v => rfl

@[simp] theorem writeRm8_setFlags (s : State) (z g : Bool) (o : Rm8) (v : Byte) :
    writeRm8 (s.setFlags z g) o v = (writeRm8 s o v).setFlags z g := by cases o <;> rfl

@[simp] theorem writeRm16_setFlags (s : State) (z g : Bool) (o : Rm16) (v : Word) :
    writeRm16 (s.setFlags z g) o v = (writeRm16 s o v).setFlags z g := by cases o <;> rfl

/-! ## Executions blind to the flags -/

/-- Nothing the flags do not hold differs; and where `writes`, the flags do not differ either unless
the execution from `s` was refused. -/
structure SameButFlags (writes : Prop) (s t t' : State) : Prop where
  regs : t'.regs = t.regs
  ip : t'.ip = t.ip
  mem : t'.mem = t.mem
  runState : t'.runState = t.runState
  flags : writes → t = unsupported s ∨ (t'.zf = t.zf ∧ t'.sf = t.sf)

/-- The execution answers a next state, and with any other flags the same one but for the flags it
does not write. -/
def FlagBlind (writes : Prop) (g : State → Outcome) : Prop :=
  ∀ (s : State) (z f : Bool), ∃ t t', g s = .next t ∧ g (s.setFlags z f) = .next t' ∧
    SameButFlags writes s t t'

theorem raise_flagBlind (writes : Prop) : FlagBlind writes (raise .unsupportedOperation) :=
  fun _ _ _ => ⟨_, _, rfl, rfl, rfl, rfl, rfl, rfl, fun _ => .inl rfl⟩

theorem execMove8_flagBlind {writes : Prop} (hw : ¬ writes) (dst : Rm8) (src : Src8) (n : Nat) :
    FlagBlind writes (execMove8 dst src n) := by
  intro s z f
  refine ⟨_, _, execMove8_eq dst src n s, execMove8_eq dst src n _, ?_⟩
  rw [value8_setFlags, writeRm8_setFlags]
  exact ⟨rfl, rfl, rfl, rfl, fun h => absurd h hw⟩

theorem execMove16_flagBlind {writes : Prop} (hw : ¬ writes) (dst : Rm16) (src : Src16) (n : Nat) :
    FlagBlind writes (execMove16 dst src n) := by
  intro s z f
  refine ⟨_, _, execMove16_eq dst src n s, execMove16_eq dst src n _, ?_⟩
  rw [value16_setFlags, writeRm16_setFlags]
  exact ⟨rfl, rfl, rfl, rfl, fun h => absurd h hw⟩

theorem execMovRm8Imm8_flagBlind {writes : Prop} (hw : ¬ writes) (dst : Rm8) (v : Byte) :
    FlagBlind writes (execMovRm8Imm8 dst v) := by
  intro s z f
  by_cases h : (isMem dst && s.config.movbMem == .refuse) = true
  · obtain ⟨t, t', ht, ht', hsame⟩ := raise_flagBlind writes s z f
    exact ⟨t, t', (if_pos h).trans ht, (if_pos h).trans ht', hsame⟩
  · obtain ⟨t, t', ht, ht', hsame⟩ :=
      execMove8_flagBlind hw dst (.imm v) (Instr.len (.movRm8Imm8 dst v)) s z f
    exact ⟨t, t', (if_neg h).trans ht, (if_neg h).trans ht', hsame⟩

theorem execArith8_flagBlind (writes : Prop) (f : Family) (dst : Rm8) (src : Src8) (n : Nat) :
    FlagBlind writes (execArith8 f dst src n) := by
  intro s z g
  cases hc : s.config.arith8 with
  | refuse =>
    exact ⟨_, _, execArith8_refused f dst src n s hc, execArith8_refused f dst src n _ hc,
      rfl, rfl, rfl, rfl, fun _ => .inl rfl⟩
  | native8 =>
    by_cases hf : f = .cmp
    · subst hf
      refine ⟨_, _, execArith8_cmp dst src n s hc, execArith8_cmp dst src n (s.setFlags z g) hc, ?_⟩
      rw [readRm8_setFlags, value8_setFlags]
      exact ⟨rfl, rfl, rfl, rfl, fun _ => .inr ⟨rfl, rfl⟩⟩
    · cases dst with
      | mem m =>
        exact ⟨_, _, execArith8_mem f m src n s hf, execArith8_mem f m src n _ hf,
          rfl, rfl, rfl, rfl, fun _ => .inl rfl⟩
      | reg r =>
        refine ⟨_, _, execArith8_reg f r src n s hc hf,
          execArith8_reg f r src n (s.setFlags z g) hc hf, ?_⟩
        rw [value8_setFlags]
        exact ⟨rfl, rfl, rfl, rfl, fun _ => .inr ⟨rfl, rfl⟩⟩

theorem execArith16_flagBlind (writes : Prop) (f : Family) (dst : Rm16) (src : Src16) (n : Nat) :
    FlagBlind writes (execArith16 f dst src n) := by
  intro s z g
  by_cases hf : f = .cmp
  · subst hf
    refine ⟨_, _, execArith16_cmp dst src n s, execArith16_cmp dst src n (s.setFlags z g), ?_⟩
    rw [readRm16_setFlags, value16_setFlags]
    exact ⟨rfl, rfl, rfl, rfl, fun _ => .inr ⟨rfl, rfl⟩⟩
  · cases dst with
    | mem m =>
      exact ⟨_, _, execArith16_mem f m src n s hf, execArith16_mem f m src n _ hf,
        rfl, rfl, rfl, rfl, fun _ => .inl rfl⟩
    | reg r =>
      refine ⟨_, _, execArith16_reg f r src n s hf,
        execArith16_reg f r src n (s.setFlags z g) hf, ?_⟩
      rw [value16_setFlags]
      exact ⟨rfl, rfl, rfl, rfl, fun _ => .inr ⟨rfl, rfl⟩⟩

theorem not_isArithmetic_of_move {i : Instr} {v : MoveVariant} (h : i.record.opcode = .move v) :
    ¬ IsArithmetic i := by
  rintro ⟨f, w, hop⟩
  cases h.symm.trans hop

/-- The four jumps that read the flags. -/
def ReadsFlags (i : Instr) : Prop := ∃ d, i = .je d ∨ i = .jne d ∨ i = .js d ∨ i = .jns d

theorem readsFlags_jccInstr {c : Cond} {d : Byte} (h : c = .e ∨ c = .ne ∨ c = .s ∨ c = .ns) :
    ReadsFlags (jccInstr c d) := by
  rcases h with rfl | rfl | rfl | rfl <;> simp [ReadsFlags, jccInstr]

theorem jccInstr_flagBlind (writes : Prop) {c : Cond} {d : Byte} (h : ¬ ReadsFlags (jccInstr c d)) :
    FlagBlind writes (exec (jccInstr c d)) := by
  have hc : c ≠ .e ∧ c ≠ .ne ∧ c ≠ .s ∧ c ≠ .ns := by
    simpa only [not_or] using mt readsFlags_jccInstr h
  exact fun s z f => ⟨_, _, exec_jccInstr_unevaluable hc d s, exec_jccInstr_unevaluable hc d _,
    rfl, rfl, rfl, rfl, fun _ => .inl rfl⟩

/-- The shared execution of an instruction, which its record names, is the same in every state. -/
theorem exec_form : ∀ i : Instr,
    (∃ v dst src, i.record = record8 (.move v) dst src i.len ∧
        ∀ s, exec i s = execMove8 dst src i.len s) ∨
      (∃ v dst src, i.record = record16 (.move v) dst src i.len ∧
        ∀ s, exec i s = execMove16 dst src i.len s) ∨
      (∃ f v dst src, i.record = record8 (.arithmetic f v) dst src i.len ∧
        ∀ s, exec i s = execArith8 f dst src i.len s) ∨
      (∃ f v dst src, i.record = record16 (.arithmetic f v) dst src i.len ∧
        ∀ s, exec i s = execArith16 f dst src i.len s) ∨
      (∃ c d, i = jccInstr c d) ∨ ∃ dst v, i = .movRm8Imm8 dst v := by
  refine Instr.form_cases ?movRm8 ?movRm16 ?movImm8 ?movImm16 ?movRmImm8 ?movRmImm16 ?rm8 ?rm16
    ?acc8 ?acc16 ?imm8 ?imm16 ?immSext ?jcc
  case movRm8 =>
    intro d o r
    cases d <;> exact .inl ⟨_, _, _, rfl, fun _ => rfl⟩
  case movRm16 =>
    intro d o r
    cases d <;> exact .inr (.inl ⟨_, _, _, rfl, fun _ => rfl⟩)
  case movImm8 => exact fun r v => .inl ⟨_, _, _, rfl, fun _ => rfl⟩
  case movImm16 => exact fun r v => .inr (.inl ⟨_, _, _, rfl, fun _ => rfl⟩)
  case movRmImm8 => exact fun o v => .inr (.inr (.inr (.inr (.inr ⟨o, v, rfl⟩))))
  case movRmImm16 => exact fun o v => .inr (.inl ⟨_, _, _, rfl, fun _ => rfl⟩)
  case rm8 =>
    intro f d o r
    cases f <;> cases d <;> exact .inr (.inr (.inl ⟨_, _, _, _, rfl, fun _ => rfl⟩))
  case rm16 =>
    intro f d o r
    cases f <;> cases d <;> exact .inr (.inr (.inr (.inl ⟨_, _, _, _, rfl, fun _ => rfl⟩)))
  case acc8 =>
    intro f v
    cases f <;> exact .inr (.inr (.inl ⟨_, _, _, _, rfl, fun _ => rfl⟩))
  case acc16 =>
    intro f v
    cases f <;> exact .inr (.inr (.inr (.inl ⟨_, _, _, _, rfl, fun _ => rfl⟩)))
  case imm8 =>
    intro f s o v
    cases f <;> cases s <;> exact .inr (.inr (.inl ⟨_, _, _, _, rfl, fun _ => rfl⟩))
  case imm16 =>
    intro f o v
    cases f <;> exact .inr (.inr (.inr (.inl ⟨_, _, _, _, rfl, fun _ => rfl⟩)))
  case immSext =>
    intro f o v
    cases f <;> exact .inr (.inr (.inr (.inl ⟨_, _, _, _, rfl, fun _ => rfl⟩)))
  case jcc => exact fun c d => .inr (.inr (.inr (.inr (.inl ⟨c, d, rfl⟩))))

theorem exec_flagBlind (i : Instr) (hi : ¬ ReadsFlags i) : FlagBlind (IsArithmetic i) (exec i) := by
  rcases exec_form i with ⟨v, dst, src, hr, e⟩ | ⟨v, dst, src, hr, e⟩ | ⟨f, v, dst, src, -, e⟩ |
    ⟨f, v, dst, src, -, e⟩ | ⟨c, d, rfl⟩ | ⟨dst, v, rfl⟩
  · rw [funext e]
    exact execMove8_flagBlind (not_isArithmetic_of_move (by rw [hr]; rfl)) dst src i.len
  · rw [funext e]
    exact execMove16_flagBlind (not_isArithmetic_of_move (by rw [hr]; rfl)) dst src i.len
  · rw [funext e]
    exact execArith8_flagBlind _ f dst src i.len
  · rw [funext e]
    exact execArith16_flagBlind _ f dst src i.len
  · exact jccInstr_flagBlind _ hi
  · exact execMovRm8Imm8_flagBlind (not_isArithmetic_of_move (v := .movImmRm) rfl) dst v

/-- Settles O43: what is not arithmetic keeps the flags, and all but four jumps are blind to
them. -/
theorem flagWritersAndReaders : Obligations.FlagWritersAndReaders := by
  refine ⟨fun i s t => exec_keepsFlags, fun i s t z g hi h => ?_⟩
  have hblind : ¬ ReadsFlags i := fun ⟨d, hd⟩ => by
    obtain ⟨he, hne, hs, hns⟩ := hi d
    rcases hd with hd | hd | hd | hd <;> contradiction
  obtain ⟨u, t', hu, ht', hregs, hip, hmem, hrun, hflags⟩ := exec_flagBlind i hblind s z g
  cases hu.symm.trans h
  exact ⟨t', ht', hregs, hip, hmem, hrun, hflags⟩

/-! ## The causes of Unsupported-Operation (R180) -/

/-- The causes the spec lists, on the instruction and the parameters of the state. -/
def UnsupportedCause (i : Instr) (s : State) : Prop :=
  ((∃ f v, i.record.opcode = .arithmetic f v ∧ f ≠ .cmp) ∧ MemoryOperand i.record.dst) ∨
    (∃ c, i.record.opcode = .conditionalJump c ∧ c ∉ [Cond.e, .ne, .s, .ns]) ∨
    (IsArithmetic i ∧ i.record.width = some .w8 ∧ s.config.arith8 = .refuse) ∨
    (∃ m v, i = .movRm8Imm8 (.mem m) v ∧ s.config.movbMem = .refuse)

theorem memoryOperand_rm8 {o : Rm8} (h : MemoryOperand (some (Rm8.operand o))) :
    ∃ m, o = .mem m := by
  cases o with
  | reg r => rcases h with ⟨e, h⟩ | ⟨a, h⟩ <;> cases h
  | mem m => exact ⟨m, rfl⟩

theorem memoryOperand_rm16 {o : Rm16} (h : MemoryOperand (some (Rm16.operand o))) :
    ∃ m, o = .mem m := by
  cases o with
  | reg r => rcases h with ⟨e, h⟩ | ⟨a, h⟩ <;> cases h
  | mem m => exact ⟨m, rfl⟩

theorem exec_memory_refused {i : Instr} {f : Family} {v : ArithVariant}
    (hop : i.record.opcode = .arithmetic f v) (hf : f ≠ .cmp) (hmem : MemoryOperand i.record.dst)
    (s : State) : exec i s = .next (unsupported s) := by
  rcases exec_shape i s with ⟨_, _, _, hr, -⟩ | ⟨_, _, _, hr, -⟩ | ⟨_, _, dst, src, hr, -⟩ |
    ⟨_, _, dst, src, hr, -⟩ | ⟨_, _, hr, -⟩ | ⟨_, _, rfl, -, -⟩
  case inr.inr.inr.inr.inr => cases hop
  all_goals (have hop := hr ▸ hop; cases hop)
  · obtain ⟨m, rfl⟩ := memoryOperand_rm8 (hr ▸ hmem)
    exact exec_memory8_refused hr hf s
  · obtain ⟨m, rfl⟩ := memoryOperand_rm16 (hr ▸ hmem)
    exact exec_memory16_refused hr hf s

theorem exec_jump_refused {i : Instr} {c : Cond} (hop : i.record.opcode = .conditionalJump c)
    (hc : c ∉ [Cond.e, .ne, .s, .ns]) (s : State) : exec i s = .next (unsupported s) := by
  rcases exec_shape i s with ⟨_, _, _, hr, -⟩ | ⟨_, _, _, hr, -⟩ | ⟨_, _, _, _, hr, -⟩ |
    ⟨_, _, _, _, hr, -⟩ | ⟨c', d, hr, e⟩ | ⟨_, _, rfl, -, -⟩
  case inr.inr.inr.inr.inr => cases hop
  all_goals (rw [hr] at hop; cases hop)
  rw [e, ← exec_jccInstr]
  exact exec_jccInstr_unevaluable (by simpa using hc) d s

/-- An instruction with a cause is refused. -/
theorem exec_of_cause {i : Instr} {s : State} (h : UnsupportedCause i s) :
    exec i s = .next (unsupported s) := by
  obtain ⟨hbyte, hmove⟩ := parameterRefusals
  rcases h with ⟨⟨f, v, hop, hf⟩, hmem⟩ | ⟨c, hop, hc⟩ | ⟨hi, hw, hconfig⟩ | ⟨m, v, rfl, hconfig⟩
  · exact exec_memory_refused hop hf hmem s
  · exact exec_jump_refused hop hc s
  · exact hbyte s i hconfig hi hw
  · exact hmove s m v hconfig

/-- An instruction with no cause leaves the run state as it is. -/
theorem cause_or_keeps_runState {i : Instr} {s t : State} (h : exec i s = .next t) :
    UnsupportedCause i s ∨ t.runState = s.runState := by
  rcases exec_shape i s with ⟨_, dst, src, -, e⟩ | ⟨_, dst, src, -, e⟩ | ⟨f, v, dst, src, hr, e⟩ |
    ⟨f, v, dst, src, hr, e⟩ | ⟨c, d, hr, e⟩ | ⟨m, v, rfl, hconfig, -⟩
  · cases (e.trans (execMove8_eq dst src _ s)).symm.trans h
    obtain ⟨-, -, -, hrun, -⟩ := writeRm8_keeps s dst (value8 s src)
    exact .inr hrun
  · cases (e.trans (execMove16_eq dst src _ s)).symm.trans h
    obtain ⟨-, -, -, hrun, -⟩ := writeRm16_keeps s dst (value16 s src)
    exact .inr hrun
  · cases hc : s.config.arith8 with
    | refuse => exact .inl (.inr (.inr (.inl ⟨⟨f, v, by rw [hr]; rfl⟩, by rw [hr]; rfl, hc⟩)))
    | native8 =>
      by_cases hf : f = .cmp
      · subst hf
        cases (e.trans (execArith8_cmp dst src _ s hc)).symm.trans h
        exact .inr rfl
      · cases dst with
        | mem m =>
          exact .inl (.inl ⟨⟨f, v, by rw [hr]; rfl, hf⟩, by rw [hr]; exact memoryOperand_operand m⟩)
        | reg r =>
          cases (e.trans (execArith8_reg f r src _ s hc hf)).symm.trans h
          exact .inr rfl
  · by_cases hf : f = .cmp
    · subst hf
      cases (e.trans (execArith16_cmp dst src _ s)).symm.trans h
      exact .inr rfl
    · cases dst with
      | mem m =>
        exact .inl (.inl ⟨⟨f, v, by rw [hr]; rfl, hf⟩, by rw [hr]; exact memoryOperand_operand m⟩)
      | reg r =>
        cases (e.trans (execArith16_reg f r src _ s hf)).symm.trans h
        exact .inr rfl
  · rcases execJcc_cases c d s with ⟨hc, -⟩ | ⟨-, e'⟩ | ⟨-, e'⟩
    · have hc := (condition_eq_none_iff c s.zf s.sf).mp hc
      exact .inl (.inr (.inl ⟨c, by rw [hr]; rfl, by simpa using hc⟩))
    · cases (e.trans e').symm.trans h
      exact .inr rfl
    · cases (e.trans e').symm.trans h
      exact .inr rfl
  · exact .inl (.inr (.inr (.inr ⟨m, v, rfl, hconfig⟩)))

/-- Settles O46: every cause refuses, and without one the block runs on. -/
theorem unsupportedOperationCauses : Obligations.UnsupportedOperationCauses := by
  intro i s hrun
  refine ⟨fun ⟨t, h, hhalt⟩ => ?_, fun h => ⟨_, exec_of_cause h, rfl⟩⟩
  rcases cause_or_keeps_runState h with hcause | hkeep
  · exact hcause
  · cases (hkeep.trans hrun).symm.trans hhalt

end Sys2Proof.Machine
end

section
/-! PROOFS. The step and the run: one step (O47), final halts (O51), Type-Mismatch (O52), safety
(O53), self-jumps (O54), the invariant (O56, O57), 60_exceptions.md and 70_reset_and_hazards.md. -/

namespace Sys2Proof.Machine

open Sys2Proof.Claims

/-- Settles O47: what the decoder reads at `ip` is performed. -/
theorem stepRunsDecodedInstruction : Obligations.StepRunsDecodedInstruction :=
  fun _ _ hlegal hrun hdecode => step_of_fetch hlegal hrun hdecode

/-! ## Runs -/

/-- A state that a step leaves as it is stays for any number of steps. -/
theorem run_of_step_self {s : State} (h : step s = .next s) (k : Nat) :
    Sys2Proof.core.run k s = .next s := by
  induction k with
  | zero => rfl
  | succ k ih => exact (run_succ k h).trans ih

/-- Settles O51: a step of a halted block leaves it as it is. -/
theorem haltIsFinal : Obligations.HaltIsFinal := fun _ _ k hlegal hhalt =>
  have hstep := step_of_halted hlegal hhalt
  ⟨hstep, run_of_step_self hstep k⟩

/-! ## Type-Mismatch (R179) -/

theorem haltReasonOf_ne_typeMismatch (out : DecOut) : haltReasonOf out ≠ .typeMismatch := by
  rcases out with _ | _ | _ | _ <;> nofun

theorem regWidth_ne_iff (d q : RegName) : regWidth d ≠ regWidth q ↔
    (∃ r r', d = .r8 r ∧ q = .r16 r') ∨ ∃ r r', d = .r16 r ∧ q = .r8 r' := by
  cases d <;> cases q <;> simp [regWidth]

/-- The check answers something for two register operands of different widths only. -/
theorem moveCheck_eq_typeMismatch_iff (d q : Operand) : moveCheck d q = some .typeMismatch ↔
    ∃ r r', d = .reg r ∧ q = .reg r' ∧ regWidth r ≠ regWidth r' := by
  cases d <;> cases q <;> simp [moveCheck]

/-- Settles O52: no fetch fixes Type-Mismatch as the reason of a halt, and the check tells the
widths of two registers apart. -/
theorem typeMismatchNeverOccurs : Obligations.TypeMismatchNeverOccurs := by
  refine ⟨fun s t hrun hstep hhalt => ?_, fun d q => ?_⟩
  · obtain ⟨hreason, -⟩ := step_halted hrun hstep hhalt
    exact haltReasonOf_ne_typeMismatch s.fetch hreason.symm
  · rw [moveCheck_eq_typeMismatch_iff]
    simp only [regWidth_ne_iff]
    constructor
    · rintro ⟨_, _, rfl, rfl, ⟨r, r', rfl, rfl⟩ | ⟨r, r', rfl, rfl⟩⟩
      · exact .inl ⟨r, r', rfl, rfl⟩
      · exact .inr ⟨r, r', rfl, rfl⟩
    · rintro (⟨r, r', rfl, rfl⟩ | ⟨r, r', rfl, rfl⟩)
      · exact ⟨_, _, rfl, rfl, .inl ⟨r, r', rfl, rfl⟩⟩
      · exact ⟨_, _, rfl, rfl, .inr ⟨r, r', rfl, rfl⟩⟩

/-! ## Safety -/

theorem exists_exec (i : Instr) (s : State) : ∃ t, exec i s = .next t := by
  obtain ⟨t, h, -⟩ := exec_bufferBlind i s s.buf
  exact ⟨t, h⟩

/-- On legal launch inputs a step answers a next state, which is legal again. -/
theorem exists_step {s : State} (hlegal : Legal s) : ∃ t, step s = .next t ∧ Legal t := by
  have hnext : ∃ t, controlStep s = .next t := by
    cases hrun : s.runState with
    | halted r => exact ⟨s, controlStep_halted hrun⟩
    | running =>
      rw [controlStep_running s hrun]
      rcases perform_cases s.fetch s with ⟨r, -, e⟩ | ⟨i, -, e⟩
      · exact ⟨_, e⟩
      · rw [e]
        exact exists_exec i s
  obtain ⟨t, ht⟩ := hnext
  have hstep := (step_of_legal s hlegal).trans ht
  obtain ⟨hbuf, -⟩ := step_keepsLaunchInputs hstep
  exact ⟨t, hstep, by rwa [Legal, hbuf]⟩

theorem safeRun_of_legal (k : Nat) {s : State} (hlegal : Legal s) : SafeRun k s := by
  induction k generalizing s with
  | zero => exact ⟨s, rfl⟩
  | succ k ih =>
    obtain ⟨t, hstep, ht⟩ := exists_step hlegal
    obtain ⟨u, hrun⟩ := ih ht
    exact ⟨u, (run_succ k hstep).trans hrun⟩

/-- Settles O53: every step of a legal state answers a legal state. -/
theorem legalRunsAreSafe : Obligations.LegalRunsAreSafe :=
  ⟨fun _ k hlegal => safeRun_of_legal k hlegal,
    fun s hillegal => step_of_illegal s (Nat.lt_of_not_le hillegal)⟩

/-! ## Self-jumps -/

/-- Displacement 0xFE takes the jump back over its own two bytes. -/
theorem jumpTarget_self (s : State) : jumpTarget s 0xFE = s.ip := by
  have hback : BitVec.ofNat 16 2 + sext16 0xFE = 0#16 := by decide
  rw [jumpTarget, State.ipNext, BitVec.add_assoc, hback, BitVec.add_zero]

theorem execJcc_self {c : Cond} {s : State} (h : condition c s.zf s.sf = some true) :
    execJcc c 0xFE s = .next s := by
  rw [execJcc, h, jumpTarget_self]
  rfl

/-- Settles O54: the step of a taken self-jump leaves the state as it is. -/
theorem selfJumpRunsForever : Obligations.SelfJumpRunsForever := by
  intro s k i hlegal hrun hcond hdecode
  refine run_of_step_self ((step_of_fetch hlegal hrun hdecode).trans ?_) k
  rcases hcond with ⟨rfl, h⟩ | ⟨rfl, h⟩ | ⟨rfl, h⟩ | ⟨rfl, h⟩
  · exact execJcc_self (c := .e) (by rw [h]; rfl)
  · exact execJcc_self (c := .ne) (by rw [h]; rfl)
  · exact execJcc_self (c := .s) (by rw [h]; rfl)
  · exact execJcc_self (c := .ns) (by rw [h]; rfl)

/-! ## The invariant -/

theorem launch_inv (c : Config) {b : List Byte} (h : b.length ≤ bufferLimit) :
    (State.launch c b).Inv :=
  ⟨⟨List.Pairwise.nil, by simp⟩, h, Nat.zero_le _⟩

/-- Settles O56: memory is empty and the cursor at 0 at launch. -/
theorem resetMeetsInvariant : Obligations.ResetMeetsInvariant :=
  ⟨fun c _ h => launch_inv c h, launch_inv _ (Nat.zero_le _)⟩

/-- The invariant speaks of memory, the buffer and the cursor only. -/
theorem State.Inv.congr {s t : State} (h : s.Inv) (hmem : Memory.wf t.mem) (hbuf : t.buf = s.buf)
    (hcursor : t.cursor = s.cursor) : t.Inv :=
  ⟨hmem, hbuf ▸ h.buf, by rw [hcursor, hbuf]; exact h.cursor⟩

theorem raise_keepsInv {r : HaltReason} {s t : State} (hs : s.Inv) (h : raise r s = .next t) :
    t.Inv := by
  cases h
  exact hs.congr hs.mem rfl rfl

theorem exec_keepsInv {i : Instr} {s t : State} (hs : s.Inv) (h : exec i s = .next t) : t.Inv := by
  rcases exec_cases i s with e | ⟨u, e, -, hcursor, hbuf, -, hwf⟩
  · exact raise_keepsInv hs (e.symm.trans h)
  · cases e.symm.trans h
    exact hs.congr (hwf hs.mem) hbuf hcursor

theorem controlStep_keepsInv {s t : State} (hs : s.Inv) (h : controlStep s = .next t) : t.Inv := by
  cases hrun : s.runState with
  | halted r =>
    cases (controlStep_halted hrun).symm.trans h
    exact hs
  | running =>
    rw [controlStep_running s hrun] at h
    rcases perform_cases s.fetch s with ⟨r, -, e⟩ | ⟨i, -, e⟩
    · exact raise_keepsInv hs (e.symm.trans h)
    · exact exec_keepsInv hs (e.symm.trans h)

/-- Settles O57: a legal state's step halts, stays, or executes, and each keeps the invariant. -/
theorem stepKeepsInvariant : Obligations.StepKeepsInvariant :=
  fun s _ hs h => controlStep_keepsInv hs ((step_of_legal s hs.buf).symm.trans h)

end Sys2Proof.Machine
end

section
/-! PROOFS. Decode-only mode (O58, O59), 40_decoder.md section 4, and the observation (O60),
10_state.md section 8. -/

namespace Sys2Proof

/-! ## Lengths (R95, R103) -/

theorem Instr.len_pos (i : Instr) : 0 < i.len := by
  rw [← encode_length]
  cases i <;> exact Nat.succ_pos _

theorem Decoded.len_pos (d : Decoded) : 0 < d.len := by
  cases d with
  | known i => exact i.len_pos
  | unrecognized => exact Nat.one_pos

/-- What is decoded lies within the bytes. -/
theorem len_le_of_decode {bytes : List Byte} {d : Decoded} (h : decode bytes = .ok d) :
    d.len ≤ bytes.length := by
  cases d with
  | known i =>
    obtain ⟨-, -, hlen⟩ := encodeInvertsDecode bytes i h
    exact hlen
  | unrecognized =>
    refine List.length_pos_iff.mpr ?_
    rintro rfl
    cases h

namespace Machine

open Sys2Proof.Claims

/-! ## One call -/

theorem decodeNext_of_ok {s : State} {d : Decoded} (h : decodeAt s.buf s.cursor = .ok d) :
    decodeNext s = (.ok d, { s with cursor := s.cursor + d.len }) := by
  rw [decodeNext, h]

theorem decodeNext_of_not_ok {s : State} (h : ∀ d, decodeAt s.buf s.cursor ≠ .ok d) :
    decodeNext s = (decodeAt s.buf s.cursor, s) := by
  rw [decodeNext]
  split
  case h_1 d hd => exact absurd hd (h d)
  case h_2 => rfl

theorem cursor_add_len_le {s : State} (hs : s.cursor ≤ s.buf.length) {d : Decoded}
    (h : decodeAt s.buf s.cursor = .ok d) : s.cursor + d.len ≤ s.buf.length := by
  have hlen := len_le_of_decode h
  rw [List.length_drop] at hlen
  omega

/-- Settles O58, by whether the decoder answers something. -/
theorem decodeOnlyCall : Obligations.DecodeOnlyCall := by
  intro s
  by_cases h : ∃ d, decodeAt s.buf s.cursor = .ok d
  · obtain ⟨d, hd⟩ := h
    rw [decodeNext_of_ok hd, hd]
    refine ⟨rfl, ?_, fun hnot => absurd rfl (hnot d),
      fun hs => ⟨hs.mem, hs.buf, cursor_add_len_le hs.cursor hd⟩⟩
    rintro _ ⟨⟩
    rfl
  · have hnot : ∀ d, decodeAt s.buf s.cursor ≠ .ok d := fun d hd => h ⟨d, hd⟩
    rw [decodeNext_of_not_ok hnot]
    exact ⟨rfl, fun d hd => absurd hd (hnot d), fun _ => rfl, id⟩

/-! ## A sequence of calls -/

/-- What a sequence of calls from `s` answers, given its bound. -/
structure ListingOk (s : State) (out : List Decoded × ListingEnd × State) : Prop where
  bound : out.2.1 ≠ .bound
  cursor : out.2.2.cursor = s.cursor + (out.1.map Decoded.len).sum
  within : out.2.2.cursor ≤ s.buf.length
  last : ∀ d ∈ out.1.dropLast, d ≠ .unrecognized

section
variable {n : Nat} {s : State}

theorem listing_of_endOfBuffer (h : decodeAt s.buf s.cursor = .endOfBuffer) :
    listing (n + 1) s = ([], .endOfBuffer, s) := by
  rw [listing, decodeNext_of_not_ok (by simp [h]), h]

theorem listing_of_truncated (h : decodeAt s.buf s.cursor = .truncated) :
    listing (n + 1) s = ([], .truncated, s) := by
  rw [listing, decodeNext_of_not_ok (by simp [h]), h]

theorem listing_of_unrecognized (h : decodeAt s.buf s.cursor = .ok .unrecognized) :
    listing (n + 1) s = ([.unrecognized], .unrecognized, { s with cursor := s.cursor + 1 }) := by
  rw [listing, decodeNext_of_ok h]
  rfl

theorem listing_of_known {i : Instr} (h : decodeAt s.buf s.cursor = .ok (.known i)) :
    listing (n + 1) s = (.known i :: (listing n { s with cursor := s.cursor + i.len }).1,
      (listing n { s with cursor := s.cursor + i.len }).2) := by
  rw [listing, decodeNext_of_ok h]
  rfl

end

theorem ne_unrecognized_of_mem_dropLast_cons {i : Instr} {ds : List Decoded}
    (h : ∀ d ∈ ds.dropLast, d ≠ .unrecognized) :
    ∀ d ∈ (Decoded.known i :: ds).dropLast, d ≠ .unrecognized := by
  cases ds with
  | nil => simp
  | cons e ds =>
    rw [List.dropLast_cons_cons, List.forall_mem_cons]
    exact ⟨nofun, h⟩

/-- A bound above the bytes left is not reached, for every call that goes on takes a byte. -/
theorem listing_ok (n : Nat) (s : State) (hs : s.cursor ≤ s.buf.length)
    (hn : s.buf.length < s.cursor + n) : ListingOk s (listing n s) := by
  induction n generalizing s with
  | zero => exact absurd hs (Nat.not_le.mpr hn)
  | succ n ih =>
    cases hd : decodeAt s.buf s.cursor with
    | endOfBuffer =>
      rw [listing_of_endOfBuffer hd]
      exact ⟨nofun, rfl, hs, by simp⟩
    | truncated =>
      rw [listing_of_truncated hd]
      exact ⟨nofun, rfl, hs, by simp⟩
    | ok d =>
      have hcursor := cursor_add_len_le hs hd
      cases d with
      | unrecognized =>
        rw [listing_of_unrecognized hd]
        exact ⟨nofun, rfl, hcursor, by simp⟩
      | known i =>
        have hpos := i.len_pos
        have hrest := ih { s with cursor := s.cursor + i.len } hcursor
          (show s.buf.length < s.cursor + i.len + n by omega)
        rw [listing_of_known hd]
        refine ⟨hrest.bound, ?_, hrest.within, ne_unrecognized_of_mem_dropLast_cons hrest.last⟩
        rw [hrest.cursor, List.map_cons, List.sum_cons, Nat.add_assoc]
        rfl

/-- Settles O59: `L + 1` calls are above the bytes left. -/
theorem decodeOnlySequenceEnds : Obligations.DecodeOnlySequenceEnds := by
  intro s hs
  obtain ⟨hbound, hcursor, hwithin, hlast⟩ := listing_ok (s.buf.length + 1) s hs (by omega)
  exact ⟨hbound, hcursor, hwithin, hlast⟩

/-! ## The observation -/

theorem haltCode_eq_none_iff (s : State) : haltCode s = none ↔ Running s := by
  unfold haltCode Running
  cases s.runState <;> simp

/-- The codes tell the reasons apart (60_exceptions.md R176). -/
theorem HaltReason.code_injective {r q : HaltReason} (h : r.code = q.code) : r = q := by
  revert h
  cases r <;> cases q <;> decide

theorem haltCode_eq_some_iff (s : State) (r : HaltReason) :
    haltCode s = some r.code ↔ HaltedFor s r := by
  unfold haltCode HaltedFor
  cases s.runState with
  | running => simp
  | halted q => simpa using ⟨HaltReason.code_injective, congrArg HaltReason.code⟩

/-- Settles O60: the cells are those of canonical memory, and each reason has its own code. -/
theorem observationIsFaithful : Obligations.ObservationIsFaithful := by
  refine ⟨fun s hwf => ⟨rfl, rfl, rfl, rfl, rfl, fun a v => ?_⟩, haltCode_eq_none_iff, ?_⟩
  · exact Memory.mem_iff_readAt s.mem hwf a.toNat v
  · simp only [List.forall_mem_cons, List.not_mem_nil, false_implies, implies_true, and_true]
    exact ⟨fun s => haltCode_eq_some_iff s .endOfStream,
      fun s => haltCode_eq_some_iff s .truncatedInstruction,
      fun s => haltCode_eq_some_iff s .unrecognizedOpcode,
      fun s => haltCode_eq_some_iff s .typeMismatch,
      fun s => haltCode_eq_some_iff s .unsupportedOperation⟩

end Machine

end Sys2Proof
end
